-- ==== Sys2Proof/Word.lean ====
section
/-! DEFINITION. The word types of the core: spec/00_scope.md rules R5, R6, R7 and spec/30_encoding.md rules R70, R72, R75.
Every width is one the spec fixes; every value is unsigned (R7). -/

namespace Sys2Proof

/-- A byte of the command stream, a message character (`CHAR_W`) and a ROM word: 8 bits (R6, R51, R75). -/
abbrev Byte := BitVec 8

/-- A symbol cell, `SYM_W` = 2 bits (R6, R70): 0 `SIL`, 1 `MARK`, 2 `SPACE`, 3 invalid (R71). -/
abbrev Sym := BitVec 2

/-- A code word of the opcode table, groups CODE and ROM: 5 bits, the reference value of the parameter `CODE_W` (R5, R72, R87).
The codec and the queue take codes of the configured width, `Config.CodeSpace.codeW`. -/
abbrev Code := BitVec 5

/-- A frequency, a timestamp or a delay: `FREQ_W`, `TIME_W`, `DELAY_W` are all 32 bits (R6). -/
abbrev Word := BitVec 32

end Sys2Proof
end

