-- ==== Sys2Proof/Config.lean ====
section
/-! DEFINITION. What is fixed for one machine: the constants and parameters of spec/00_scope.md rules R5 and R6, the ROM
pair with its well-formedness (spec/20_memory.md rules R51, R52) and the free value for cells nothing has written. -/

namespace Sys2Proof.Config

/-- The code space: the five parameters of R5 that the codec and the frame share. The reference values are those of
`Machine.codeSpace`. The conditions under which other values still make a codec are the model's (log 28). -/
structure CodeSpace where
  /-- `CODE_W`: width of a Baudot code in bits (R5, R72). -/
  codeW : Nat
  /-- `ROM_LEN`: entries in each of the two Baudot tables (R5, R51). -/
  romLen : Nat
  /-- `CODE_LTRS`: the shift-to-letters sentinel (R5, R74). -/
  codeLtrs : BitVec codeW
  /-- `CODE_FIGS`: the shift-to-figures sentinel (R5, R74). -/
  codeFigs : BitVec codeW
  /-- `FRAME_LEN`: symbols per code frame (R5, R73). -/
  frameLen : Nat
  /-- The tables are "indexed by" a code (R51, R72): every index is one. -/
  romLen_le : romLen ≤ 2 ^ codeW
  /-- Code 0 is no sentinel (R74). -/
  codeLtrs_ne : codeLtrs ≠ 0#codeW
  /-- Code 0 is no sentinel (R74). -/
  codeFigs_ne : codeFigs ≠ 0#codeW
  /-- The two sentinels differ (R74). -/
  sentinels_ne : codeLtrs ≠ codeFigs
  /-- A frame has room for the start symbol and the data symbols (R73). -/
  frame_fits : codeW + 1 ≤ frameLen
deriving DecidableEq, Repr

/-- `ROM_NONE`, the ROM word of an index that holds no character (R6, R51). -/
abbrev romNone : Byte := 0x00#8

/-- `RomRead(T, i)` of R8. -/
def romRead (t : List Byte) (i : Nat) : Byte := t.getD i romNone

/-- WF2 and WF3 of R52: index 0 and the two sentinel indices of a table hold no character. -/
def sentinelsEmpty (k : CodeSpace) (t : List Byte) : Bool :=
  romRead t 0 == romNone && romRead t k.codeFigs.toNat == romNone && romRead t k.codeLtrs.toNat == romNone

/-- WF4 and WF5 of R52 in one shape: no character stands in `t` at one index and in `u` at another. With `u` = `t` this is
WF4, with the two tables it is WF5. -/
def sameIndex (k : CodeSpace) (t u : List Byte) : Bool :=
  (List.range k.romLen).all fun i =>
    romRead t i == romNone || (List.range k.romLen).all fun j => romRead u j != romRead t i || i == j

/-- R52: WF1 to WF5 of a pair of tables. -/
def romCheck (k : CodeSpace) (ltrs figs : List Byte) : Bool :=
  ltrs.length == k.romLen && figs.length == k.romLen && sentinelsEmpty k ltrs && sentinelsEmpty k figs &&
    sameIndex k ltrs ltrs && sameIndex k figs figs && sameIndex k ltrs figs

/-- The two Baudot tables (R51). A pair that fails WF1 to WF5 is refused as R52 and R109 ask: it is no value of this type. -/
structure RomPair (k : CodeSpace) where
  /-- `LTRS_ROM`, index 0 first. -/
  ltrs : List Byte
  /-- `FIGS_ROM`, index 0 first. -/
  figs : List Byte
  /-- WF1 to WF5. -/
  wf : romCheck k ltrs figs = true
deriving DecidableEq, Repr

/-- The configuration: all nine parameters of R5, five of them in the `CodeSpace`, with the ROM pair of R6 and the switch of
R126 (spec/92_eei_decisions.md, "Parameters left open"). The value this hardware takes is `Machine.hw`. -/
structure Params extends CodeSpace where
  /-- `CAPACITY`: symbol cells in the queue (R5, R54). -/
  capacity : Nat
  /-- R6: `1 <= CAPACITY`. -/
  capacity_pos : 1 ≤ capacity
  /-- R6: `CAPACITY <= 2^(WR_W-1)`. -/
  capacity_le : capacity ≤ 2048
  /-- The two tables (R51). -/
  rom : RomPair toCodeSpace
  /-- `PREAMBLE_MARKS` (R5, R125). -/
  preambleMarks : Nat
  /-- `SYMBOL_MS` (R5, R149). -/
  symbolMs : Word
  /-- `SHIFT_HZ` (R5, R31). -/
  shiftHz : Word
  /-- `EMPTY_MSG_IDLE` (R126, D9). -/
  emptyMsgIdle : Bool
deriving DecidableEq, Repr

/-- FREE VALUE (log 5). What the cell `SYM[address]` holds when nothing has written it since the `epoch`-th reset: R36 and
R221 leave it unspecified, so nothing constrains this value. -/
opaque unspecifiedSym (epoch address : Nat) : Sym

end Sys2Proof.Config
end

