-- ==== Sys2Proof/Machine/State.lean ====
section
/-! DEFINITION. The state of the machine: the seven elements of spec/10_state.md rule R20, the command decoder of rule R34,
and the world outside the core as plain data (spec/44_host_commands.md rule R184, spec/43_vfo_keying.md rule R168). -/

namespace Sys2Proof.Machine

/-- One command to the VFO adapter (R211). -/
inductive VfoCmd where
  /-- `Vfo.setOutputEnabled(b)`. -/
  | setOutputEnabled (b : Bool)
  /-- `Vfo.setFrequency(f)`, Hz. -/
  | setFrequency (f : Word)
deriving DecidableEq, Repr

/-- One event at the core's inputs (R184). -/
inductive PinEvent where
  /-- The host presents a byte of the command stream (R76). -/
  | byte (b : Byte)
  /-- The clock source's time, the `now_ms` port, takes this value (R210). -/
  | clock (t : Word)
  /-- The host asserts `rst` while no operation is executing (R220). -/
  | reset
  /-- The host asserts `rst` while the operation whose last byte came just before is executing, when it has issued `issued` of
  its VFO commands (R223, log 33). Where no operation is executing this is a `reset`. -/
  | resetDuring (issued : Nat)
deriving DecidableEq, Repr

/-- A memory of symbol cells: (index, cell) pairs, indices strictly rising. A cell not listed is unspecified (R36, R55). -/
abbrev Memory := List (Nat × Sym)

/-- The state of the machine. The first seven fields are R20's; `dec` is R34's; the last four are the world outside the core
and the model's own (logs 2, 3, 6, 18). -/
structure State where
  /-- `FIGS`, the shift state: Figures mode (R22). -/
  figs : Bool
  /-- `SYM`, the symbol memory (R33, R54). -/
  sym : Memory
  /-- `WR`, the write position and stream size (R24). -/
  wr : BitVec 12
  /-- `RD`, the read position (R25). -/
  rd : BitVec 11
  /-- `LAST`, the clock sample of the last firing `POLL` (R27). -/
  last : Word
  /-- `BASE`, the base frequency in Hz (R29). -/
  base : Word
  /-- `DELAY`, the stored delay in seconds (R30). -/
  delay : Word
  /-- The bytes of the partly received command, opcode byte first (R34, R84). -/
  dec : List Byte
  /-- The level of the `now_ms` port: what `NowMs()` answers now (R184, R210). -/
  nowMs : Word
  /-- The events the host and the clock source will present, the next one first (R236). -/
  port : List PinEvent
  /-- The VFO recorder: every command issued so far, the first one first (R10, R168). -/
  vfo : List VfoCmd
  /-- The model's own count of resets, for the free values of `SYM` (log 6). -/
  resets : Nat
deriving DecidableEq, Repr

/-- The core raises no exception and its step function has no fault outcome of its own (R200, R209): no constructor. -/
inductive Fault where
deriving DecidableEq, Repr

/-- Reasons to give an instruction no meaning. Every instruction of this core has one, so nobody raises it. -/
inductive Refusal where
  /-- Raised by an arm of `exec` whose instruction has no meaning yet: none is left. Safe: the machine stops. -/
  | notModelled (mnemonic : String)
deriving DecidableEq, Repr

/-- The machine right after reset (R36, R221), at the start of a run: nothing presented yet, nothing recorded. -/
def State.reset : State where
  figs := false
  sym := []
  wr := 0
  rd := 0
  last := 0
  base := 0
  delay := 0
  dec := []
  nowMs := 0
  port := []
  vfo := []
  resets := 0

end Sys2Proof.Machine
end

