-- ==== Sys2Proof/Machine/Ops.lean ====
section
/-! DEFINITION. The named operations over the symbol memory, the registers and the world outside, and the reset of
spec/70_reset_and_hazards.md rules R220 to R223. The core has no exception to take and none to return from
(spec/60_exceptions.md rules R200, R209): reset is the only event that cuts an operation short. -/

namespace Sys2Proof.Machine

/-- What memory `m` lists for cell `a`: `none` for a cell nothing has written since power-up, which is unspecified (R36). -/
def Memory.read (m : Memory) (a : Nat) : Option Sym :=
  match m with
  | [] => none
  | (b, v) :: cells => if b = a then some v else Memory.read cells a

/-- `SYM[a] <- v` (R8, R55), keeping the indices strictly rising. -/
def Memory.write (m : Memory) (a : Nat) (v : Sym) : Memory :=
  match m with
  | [] => [(a, v)]
  | (b, w) :: cells =>
    if a < b then (a, v) :: (b, w) :: cells
    else if a = b then (a, v) :: cells
    else (b, w) :: Memory.write cells a v

/-- The canonical form: indices strictly rising. -/
abbrev Memory.wf (m : Memory) : Prop := (m.map Prod.fst).Pairwise (· < ·)

/-- `FIGS <- v`. -/
def State.setFigs (s : State) (v : Bool) : State := { s with figs := v }

/-- The symbol memory becomes `m`. -/
def State.setSym (s : State) (m : Memory) : State := { s with sym := m }

/-- `WR <- v`. -/
def State.setWr (s : State) (v : BitVec 12) : State := { s with wr := v }

/-- `RD <- v`. -/
def State.setRd (s : State) (v : BitVec 11) : State := { s with rd := v }

/-- `LAST <- v`. -/
def State.setLast (s : State) (v : Word) : State := { s with last := v }

/-- `BASE <- v`. -/
def State.setBase (s : State) (v : Word) : State := { s with base := v }

/-- `DELAY <- v`. -/
def State.setDelay (s : State) (v : Word) : State := { s with delay := v }

/-- The decoder holds the bytes `bs` (R34). -/
def State.setDec (s : State) (bs : List Byte) : State := { s with dec := bs }

/-- The `now_ms` port shows `t` (R184). -/
def State.setNowMs (s : State) (t : Word) : State := { s with nowMs := t }

/-- The events still to come are `es`. -/
def State.setPort (s : State) (es : List PinEvent) : State := { s with port := es }

/-- The commands `cmds` go to the VFO adapter, in this order, after all earlier ones (R63, R168). -/
def State.issue (s : State) (cmds : List VfoCmd) : State := { s with vfo := s.vfo ++ cmds }

/-- `MemRead(a, 1)` (R8). A cell that memory does not list holds its free value (log 5). -/
def State.readSym (s : State) (a : Nat) : Sym :=
  (s.sym.read a).getD (Config.unspecifiedSym s.resets a)

/-- `NowMs()` (R8, R210): one query of the clock source. It changes nothing. -/
def State.queryClock (s : State) : Word := s.nowMs

/-- R32, R140: Idle is `WR = 0`, Running is `WR > 0`. -/
def State.idle (s : State) : Bool := s.wr == 0#12

/-- R181: the output `delay_q` shows `DELAY` at all times. -/
def State.delayQ (s : State) : Word := s.delay

/-- R10: all that leaves the core, the VFO commands in order and the view `delay_q`. -/
def State.observed (s : State) : List VfoCmd × Word := (s.vfo, s.delayQ)

/-- The stream (R54): the cells `SYM[0]` to `SYM[WR-1]`, in order. -/
def State.stream (s : State) : List Sym :=
  (List.range s.wr.toNat).map s.readSym

/-- R220 to R223: the core takes the reset state, whatever it was doing, and forgets a partial command. It issues no VFO
command and makes no clock query, so the recorder stays; the clock source and the events still to come are the world's. The
cells of `SYM` become unspecified anew (log 6). -/
def takeReset (s : State) : State :=
  { State.reset with nowMs := s.nowMs, port := s.port, vfo := s.vfo, resets := s.resets + 1 }

/-- R223: an operation that would have ended in `done` is abandoned when it has issued `issued` of its commands: "the state is
the reset state, not a mixture". What went to the VFO adapter by then stays with it (log 33). -/
def abandon (s done : State) (issued : Nat) : State :=
  takeReset { s with vfo := done.vfo.take (s.vfo.length + issued) }

/-- The argument of the last `setOutputEnabled` of a command list: the VFO's output enable (R35), `none` before the first
command, when nothing may be assumed of it. -/
def Vfo.enabled (cmds : List VfoCmd) : Option Bool :=
  cmds.foldl (fun now c => match c with | .setOutputEnabled b => some b | .setFrequency _ => now) none

/-- The argument of the last `setFrequency` of a command list: the VFO's frequency (R35, U7), `none` before the first. -/
def Vfo.frequency (cmds : List VfoCmd) : Option Word :=
  cmds.foldl (fun now c => match c with | .setOutputEnabled _ => now | .setFrequency f => some f) none

end Sys2Proof.Machine
end

