-- ==== Sys2Proof/Machine/Flags.lean ====
section
/-! DEFINITION. The only flag, `FIGS` (spec/10_state.md rule R22), and the one computation that writes it besides the render,
the shift-state multiplexer of spec/40_codec.md rule R103. -/

namespace Sys2Proof.Machine

/-- The sentinel that selects a mode: `CODE_FIGS` for Figures, `CODE_LTRS` for Letters (R103). -/
def sentinel (k : Config.CodeSpace) (want : Bool) : BitVec k.codeW := if want then k.codeFigs else k.codeLtrs

/-- `SHIFT_MUX(want)` (R103): the codes to send and the shift state after it. -/
def shiftMux (k : Config.CodeSpace) (want figs : Bool) : List (BitVec k.codeW) × Bool :=
  if figs = want then ([], figs) else ([sentinel k want], want)

end Sys2Proof.Machine
end

