-- ==== Sys2Proof/Machine/Codec.lean ====
section
/-! DEFINITION. The Baudot codec: `LOOKUP`, `CLASSIFY` and `ENCODE_CHAR` of spec/40_codec.md rules R100 to R110. -/

namespace Sys2Proof.Machine

/-- The scan of R100 over the words of a table from index `i` upward: the first word equal to `ch`, `ROM_NONE` never. -/
def lookupFrom (k : Config.CodeSpace) (ch : Byte) : Nat → List Byte → Option (BitVec k.codeW)
  | _, [] => none
  | i, w :: words =>
    if w ≠ Config.romNone ∧ w = ch then some (BitVec.ofNat k.codeW i) else lookupFrom k ch (i + 1) words

/-- `LOOKUP(T, ch)` (R100). -/
def lookup (k : Config.CodeSpace) (t : List Byte) (ch : Byte) : Option (BitVec k.codeW) := lookupFrom k ch 0 t

/-- The four results of `CLASSIFY` (R101, C1). -/
inductive CharClass (k : Config.CodeSpace) where
  /-- Found in neither table. -/
  | unsupported
  /-- Found in both tables at this index. -/
  | shared (i : BitVec k.codeW)
  /-- Found only in Letters. -/
  | letter (i : BitVec k.codeW)
  /-- Found only in Figures. -/
  | figure (j : BitVec k.codeW)
deriving DecidableEq, Repr

/-- `CLASSIFY(ch)` (R101). The case of two different indices is excluded by WF5, which every `RomPair` satisfies (R109, log
23); it is given no index of the two. -/
def classify {k : Config.CodeSpace} (r : Config.RomPair k) (ch : Byte) : CharClass k :=
  match lookup k r.ltrs ch, lookup k r.figs ch with
  | none, none => .unsupported
  | some i, some j => if i = j then .shared i else .unsupported
  | some i, none => .letter i
  | none, some j => .figure j

/-- `ENCODE_CHAR(ch)` (R104 to R108): the codes to send, in order, and the shift state after them. -/
def encodeChar {k : Config.CodeSpace} (r : Config.RomPair k) (ch : Byte) (figs : Bool) : List (BitVec k.codeW) × Bool :=
  match classify r ch with
  | .unsupported => ([], figs)
  | .shared i => ([i], figs)
  | .letter i => ((shiftMux k false figs).1 ++ [i], (shiftMux k false figs).2)
  | .figure j => ((shiftMux k true figs).1 ++ [j], (shiftMux k true figs).2)

end Sys2Proof.Machine
end

