-- ==== Sys2Proof/Machine/Operands.lean ====
section
/-! DEFINITION. The operand forms inside the core: the bits of a code (spec/41_queue_render.md rule R122), the clock sample and
the elapsed time (spec/42_timing_fsm.md rule R142), the next read position (R143) and the two keyed frequencies
(spec/43_vfo_keying.md rules R162, R163). -/

namespace Sys2Proof.Machine

/-- `SIL` (R70). -/
abbrev symSil : Sym := 0#2

/-- `MARK` (R70). -/
abbrev symMark : Sym := 1#2

/-- `SPACE` (R70). -/
abbrev symSpace : Sym := 2#2

/-- `sym(b)` of R122: Mark is 1, Space is 0. -/
def bitSym (b : Bool) : Sym := if b then symMark else symSpace

/-- The data symbols of a code, most significant bit first (R7, R57, R73). -/
def dataSyms (k : Config.CodeSpace) (c : BitVec k.codeW) : List Sym :=
  (List.range k.codeW).map fun i => bitSym (c.getLsbD (k.codeW - 1 - i))

/-- `EXPAND(code)` (R122): one start symbol, the data symbols, and stop symbols up to `FRAME_LEN`, two of them with the reference
values. -/
def expand (k : Config.CodeSpace) (c : BitVec k.codeW) : List Sym :=
  symSpace :: dataSyms k c ++ List.replicate (k.frameLen - 1 - k.codeW) symMark

/-- `elapsed = (now - LAST) mod 2^32` (R142). -/
def elapsed (s : State) (now : Word) : Word := now - s.last

/-- Step (c) of R143: `(RD + 1 = WR) ? 0 : RD + 1` (R26, R141). -/
def nextRd (s : State) : BitVec 11 :=
  if s.rd.toNat + 1 = s.wr.toNat then 0#11 else s.rd + 1#11

/-- The frequency of a Mark: `BASE`, read at this moment (R162). -/
def markHz (base : Word) : Word := base

/-- The frequency of a Space: `(BASE - SHIFT_HZ) mod 2^32` (R163). -/
def spaceHz (p : Config.Params) (base : Word) : Word := base - p.shiftHz

end Sys2Proof.Machine
end

