-- ==== Sys2Proof/Machine/Queue.lean ====
section
/-! DEFINITION. The write side of the symbol queue and the render: `Q_PUSH`, `Q_RESET`, `EMIT_CODE`, `EMIT_CHAR` and `RENDER`
of spec/41_queue_render.md rules R120 to R130. -/

namespace Sys2Proof.Machine

/-- `Q_PUSH(s)` (R120): the symbol at `WR`, dropped silently when the queue is full. -/
def qPush (p : Config.Params) (v : Sym) (s : State) : State :=
  if s.wr.toNat < p.capacity then (s.setSym (s.sym.write s.wr.toNat v)).setWr (s.wr + 1#12) else s

/-- `Q_PUSH` of each symbol in order, each with its own capacity test (R123). -/
def pushAll (p : Config.Params) (vs : List Sym) (s : State) : State :=
  vs.foldl (fun t v => qPush p v t) s

/-- `Q_RESET()` (R121): the cursor goes to zero, the cells stay. -/
def qReset (s : State) : State := ((s.setWr 0#12).setRd 0#11).setLast 0#32

/-- `EMIT_CODE(code)` (R123). -/
def emitCode (p : Config.Params) (c : BitVec p.codeW) (s : State) : State := pushAll p (expand p.toCodeSpace c) s

/-- `EMIT_CODE` of each code in order (R124). -/
def emitCodes (p : Config.Params) (cs : List (BitVec p.codeW)) (s : State) : State :=
  cs.foldl (fun t c => emitCode p c t) s

/-- `EMIT_CHAR(ch)` (R124): the codec, which may write `FIGS`, and then the frames of its codes. -/
def emitChar (p : Config.Params) (ch : Byte) (s : State) : State :=
  emitCodes p (encodeChar p.rom ch s.figs).1 (s.setFigs (encodeChar p.rom ch s.figs).2)

/-- Step 4 of R125: every character in order, each exactly once (R127). -/
def emitText (p : Config.Params) (text : List Byte) (s : State) : State :=
  text.foldl (fun t ch => emitChar p ch t) s

/-- Steps 2 and 3 of R125: the preamble of Marks, the Letters-shift frame, Letters mode. -/
def opening (p : Config.Params) (s : State) : State :=
  (emitCode p p.codeLtrs (pushAll p (List.replicate p.preambleMarks symMark) s)).setFigs false

/-- `RENDER(text)` (R125), with the empty text of R126. -/
def render (p : Config.Params) (text : List Byte) (s : State) : State :=
  if text = [] ∧ p.emptyMsgIdle = true then (qReset s).setFigs false
  else emitText p text (opening p ((qReset s).setFigs false))

end Sys2Proof.Machine
end

