-- ==== Sys2Proof/Machine/Rom.lean ====
section
/-! DEFINITION. The values this hardware takes for the parameters: the ROM contents of spec/20_memory.md rule R53 and the
reference values of spec/00_scope.md rules R5 and R6. -/

namespace Sys2Proof.Machine

/-- `LTRS_ROM` (R53, PRESUMED: from general knowledge, log 7), index 0 first. -/
def ltrsRom : List Byte :=
  [0x00#8, 0x54#8, 0x0D#8, 0x4F#8, 0x20#8, 0x48#8, 0x4E#8, 0x4D#8] ++
  [0x0A#8, 0x4C#8, 0x52#8, 0x47#8, 0x49#8, 0x50#8, 0x43#8, 0x56#8] ++
  [0x45#8, 0x5A#8, 0x44#8, 0x42#8, 0x53#8, 0x59#8, 0x46#8, 0x58#8] ++
  [0x41#8, 0x57#8, 0x4A#8, 0x00#8, 0x55#8, 0x51#8, 0x4B#8, 0x00#8]

/-- `FIGS_ROM` (R53, PRESUMED: from general knowledge, log 7), index 0 first. -/
def figsRom : List Byte :=
  [0x00#8, 0x35#8, 0x0D#8, 0x39#8, 0x20#8, 0x23#8, 0x2C#8, 0x2E#8] ++
  [0x0A#8, 0x29#8, 0x34#8, 0x26#8, 0x38#8, 0x30#8, 0x3A#8, 0x3B#8] ++
  [0x33#8, 0x22#8, 0x24#8, 0x3F#8, 0x07#8, 0x36#8, 0x21#8, 0x2F#8] ++
  [0x2D#8, 0x32#8, 0x27#8, 0x00#8, 0x37#8, 0x31#8, 0x28#8, 0x00#8]

/-- The reference values of R5 for the code space. -/
def codeSpace : Config.CodeSpace where
  codeW := 5
  romLen := 32
  codeLtrs := 0x1F#5
  codeFigs := 0x1B#5
  frameLen := 8
  romLen_le := by decide
  codeLtrs_ne := by decide
  codeFigs_ne := by decide
  sentinels_ne := by decide
  frame_fits := by decide

/-- R53: "This table satisfies WF1 to WF5". -/
theorem romCheck_default : Config.romCheck codeSpace ltrsRom figsRom = true := by decide

/-- The ROM pair of R53. -/
def romPair : Config.RomPair codeSpace where
  ltrs := ltrsRom
  figs := figsRom
  wf := romCheck_default

/-- The hardware: the reference values of R5 and R6, and `EMPTY_MSG_IDLE` true (R126, D9). -/
def hw : Config.Params where
  toCodeSpace := codeSpace
  capacity := 2048
  capacity_pos := by decide
  capacity_le := by decide
  rom := romPair
  preambleMarks := 3
  symbolMs := 22#32
  shiftHz := 170#32
  emptyMsgIdle := true

end Sys2Proof.Machine
end

