-- ==== Sys2Proof/Machine/Codes.lean ====
section
/-! DEFINITION. The meanings of the 32 codes: each is `EMIT_CODE` of its value (spec/41_queue_render.md rule R123), the frame of
spec/30_encoding.md rule R73 pushed symbol by symbol. The flag `FIGS` is written by the codec and the render around it, never by
`EMIT_CODE` (R123, log 20). -/

namespace Sys2Proof.Machine

/-- Code 0x1F, frame SMMMMMMM (R74, R123). -/
def execCodeLtrs (s : State) : Host.Outcome State Fault Refusal := .next (emitCode hw 0x1F#5 s)

/-- Code 0x1B, frame SMMSMMMM (R74, R123). -/
def execCodeFigs (s : State) : Host.Outcome State Fault Refusal := .next (emitCode hw 0x1B#5 s)

/-- Code 0x00, frame SSSSSSMM (R74, R123). -/
def execCodeUnused (s : State) : Host.Outcome State Fault Refusal := .next (emitCode hw 0x00#5 s)

/-- Code 0x01, frame SSSSSMMM (R53, R123). -/
def execChar01 (s : State) : Host.Outcome State Fault Refusal := .next (emitCode hw 0x01#5 s)

/-- Code 0x02, frame SSSSMSMM (R53, R123). -/
def execChar02 (s : State) : Host.Outcome State Fault Refusal := .next (emitCode hw 0x02#5 s)

/-- Code 0x03, frame SSSSMMMM (R53, R123). -/
def execChar03 (s : State) : Host.Outcome State Fault Refusal := .next (emitCode hw 0x03#5 s)

/-- Code 0x04, frame SSSMSSMM (R53, R123). -/
def execChar04 (s : State) : Host.Outcome State Fault Refusal := .next (emitCode hw 0x04#5 s)

/-- Code 0x05, frame SSSMSMMM (R53, R123). -/
def execChar05 (s : State) : Host.Outcome State Fault Refusal := .next (emitCode hw 0x05#5 s)

/-- Code 0x06, frame SSSMMSMM (R53, R123). -/
def execChar06 (s : State) : Host.Outcome State Fault Refusal := .next (emitCode hw 0x06#5 s)

/-- Code 0x07, frame SSSMMMMM (R53, R123). -/
def execChar07 (s : State) : Host.Outcome State Fault Refusal := .next (emitCode hw 0x07#5 s)

/-- Code 0x08, frame SSMSSSMM (R53, R123). -/
def execChar08 (s : State) : Host.Outcome State Fault Refusal := .next (emitCode hw 0x08#5 s)

/-- Code 0x09, frame SSMSSMMM (R53, R123). -/
def execChar09 (s : State) : Host.Outcome State Fault Refusal := .next (emitCode hw 0x09#5 s)

/-- Code 0x0A, frame SSMSMSMM (R53, R123). -/
def execChar0A (s : State) : Host.Outcome State Fault Refusal := .next (emitCode hw 0x0A#5 s)

/-- Code 0x0B, frame SSMSMMMM (R53, R123). -/
def execChar0B (s : State) : Host.Outcome State Fault Refusal := .next (emitCode hw 0x0B#5 s)

/-- Code 0x0C, frame SSMMSSMM (R53, R123). -/
def execChar0C (s : State) : Host.Outcome State Fault Refusal := .next (emitCode hw 0x0C#5 s)

/-- Code 0x0D, frame SSMMSMMM (R53, R123). -/
def execChar0D (s : State) : Host.Outcome State Fault Refusal := .next (emitCode hw 0x0D#5 s)

/-- Code 0x0E, frame SSMMMSMM (R53, R123). -/
def execChar0E (s : State) : Host.Outcome State Fault Refusal := .next (emitCode hw 0x0E#5 s)

/-- Code 0x0F, frame SSMMMMMM (R53, R123). -/
def execChar0F (s : State) : Host.Outcome State Fault Refusal := .next (emitCode hw 0x0F#5 s)

/-- Code 0x10, frame SMSSSSMM (R53, R123). -/
def execChar10 (s : State) : Host.Outcome State Fault Refusal := .next (emitCode hw 0x10#5 s)

/-- Code 0x11, frame SMSSSMMM (R53, R123). -/
def execChar11 (s : State) : Host.Outcome State Fault Refusal := .next (emitCode hw 0x11#5 s)

/-- Code 0x12, frame SMSSMSMM (R53, R123). -/
def execChar12 (s : State) : Host.Outcome State Fault Refusal := .next (emitCode hw 0x12#5 s)

/-- Code 0x13, frame SMSSMMMM (R53, R123). -/
def execChar13 (s : State) : Host.Outcome State Fault Refusal := .next (emitCode hw 0x13#5 s)

/-- Code 0x14, frame SMSMSSMM (R53, R123). -/
def execChar14 (s : State) : Host.Outcome State Fault Refusal := .next (emitCode hw 0x14#5 s)

/-- Code 0x15, frame SMSMSMMM (R53, R123). -/
def execChar15 (s : State) : Host.Outcome State Fault Refusal := .next (emitCode hw 0x15#5 s)

/-- Code 0x16, frame SMSMMSMM (R53, R123). -/
def execChar16 (s : State) : Host.Outcome State Fault Refusal := .next (emitCode hw 0x16#5 s)

/-- Code 0x17, frame SMSMMMMM (R53, R123). -/
def execChar17 (s : State) : Host.Outcome State Fault Refusal := .next (emitCode hw 0x17#5 s)

/-- Code 0x18, frame SMMSSSMM (R53, R123). -/
def execChar18 (s : State) : Host.Outcome State Fault Refusal := .next (emitCode hw 0x18#5 s)

/-- Code 0x19, frame SMMSSMMM (R53, R123). -/
def execChar19 (s : State) : Host.Outcome State Fault Refusal := .next (emitCode hw 0x19#5 s)

/-- Code 0x1A, frame SMMSMSMM (R53, R123). -/
def execChar1A (s : State) : Host.Outcome State Fault Refusal := .next (emitCode hw 0x1A#5 s)

/-- Code 0x1C, frame SMMMSSMM (R53, R123). -/
def execChar1C (s : State) : Host.Outcome State Fault Refusal := .next (emitCode hw 0x1C#5 s)

/-- Code 0x1D, frame SMMMSMMM (R53, R123). -/
def execChar1D (s : State) : Host.Outcome State Fault Refusal := .next (emitCode hw 0x1D#5 s)

/-- Code 0x1E, frame SMMMMSMM (R53, R123). -/
def execChar1E (s : State) : Host.Outcome State Fault Refusal := .next (emitCode hw 0x1E#5 s)

end Sys2Proof.Machine
end

