-- ==== Sys2Proof/Machine/Keying.lean ====
section
/-! DEFINITION. VFO keying: the dispatch `KEY` and the meaning of each symbol, spec/43_vfo_keying.md rules R160 to R168. -/

namespace Sys2Proof.Machine

/-- The commands of the dispatch `KEY(s)` with `BASE` = `base` (R160 to R165): Silence one, Mark and Space two with the enable
first, the invalid value none. -/
def keyCmds (p : Config.Params) (base : Word) (v : Sym) : List VfoCmd :=
  if v = symSil then [.setOutputEnabled false]
  else if v = symMark then [.setOutputEnabled true, .setFrequency (markHz base)]
  else if v = symSpace then [.setOutputEnabled true, .setFrequency (spaceHz p base)]
  else []

/-- `KEY(s)` (R160): it reads `BASE`, issues its commands and writes no state of the core. -/
def key (p : Config.Params) (v : Sym) (s : State) : State := s.issue (keyCmds p s.base v)

/-- `SIL` (R161). -/
def execSil (s : State) : Host.Outcome State Fault Refusal := .next (key hw symSil s)

/-- `MARK` (R162). -/
def execMark (s : State) : Host.Outcome State Fault Refusal := .next (key hw symMark s)

/-- `SPACE` (R163). -/
def execSpace (s : State) : Host.Outcome State Fault Refusal := .next (key hw symSpace s)

/-- The invalid symbol value 3 (R164): the dispatch is a no-op. -/
def execSymInvalid (s : State) : Host.Outcome State Fault Refusal := .next (key hw 3#2 s)

end Sys2Proof.Machine
end

