-- ==== Sys2Proof/Machine/Timer.lean ====
section
/-! DEFINITION. The baud-interval timer and the timing state machine: spec/42_timing_fsm.md rules R140 to R149. -/

namespace Sys2Proof.Machine

/-- Does a `POLL` with clock sample `now` fire? Running, and `elapsed >= SYMBOL_MS` unsigned (R141, R142). -/
def fires (p : Config.Params) (s : State) (now : Word) : Bool :=
  !s.idle && p.symbolMs.ule (elapsed s now)

/-- Firing (R143): (a) the symbol at `RD` is applied, (b) `LAST <- now`, (c) `RD` advances, wrapping at `WR`. -/
def fire (p : Config.Params) (s : State) (now : Word) : State :=
  ((key p (s.readSym s.rd.toNat) s).setLast now).setRd (nextRd s)

/-- `POLL` (R141): the empty-stream test comes first (R208), then one clock query, then the elapsed-time test. -/
def poll (p : Config.Params) (s : State) : State :=
  if s.idle then s
  else if fires p s s.queryClock then fire p s s.queryClock
  else s

end Sys2Proof.Machine
end

