-- ==== Sys2Proof/Machine/HostOps.lean ====
section
/-! DEFINITION. The meanings of the host operations: spec/44_host_commands.md rules R175 to R183. -/

namespace Sys2Proof.Machine

/-- `SETFREQ imm`: `BASE <- imm` and nothing else (R178). -/
def execSetfreq (imm : Word) (s : State) : Host.Outcome State Fault Refusal := .next (s.setBase imm)

/-- `SETMSG text`: `RENDER(text)`, one atomic step (R176, R130). -/
def execSetmsg (text : List Byte) (s : State) : Host.Outcome State Fault Refusal := .next (render hw text s)

/-- `SETDELAY imm`: `DELAY <- imm` and nothing else (R180). -/
def execSetdelay (imm : Word) (s : State) : Host.Outcome State Fault Refusal := .next (s.setDelay imm)

/-- `POLL` (R177). -/
def execPoll (s : State) : Host.Outcome State Fault Refusal := .next (poll hw s)

/-- A reserved command byte: no effect on any state and no VFO command (R182). -/
def execReserved (_opcode : Byte) (s : State) : Host.Outcome State Fault Refusal := .next s

/-- The pseudo-instruction `STOP`, `SETMSG ""` (R86, R126). -/
def execStop (s : State) : Host.Outcome State Fault Refusal := .next (render hw [] s)

end Sys2Proof.Machine
end

