-- ==== Sys2Proof/Syntax.lean ====
section
/-! DEFINITION. The instructions: one constructor per row of spec/opcode_table.json.
By spec/00_scope.md rule R1 the core's "instruction set" is the four host operations, the keying alphabet and the 5-bit
Baudot code space; spec/30_encoding.md rule R87 puts them in the groups F0/F4/FS, SYM, CODE and ROM. -/

namespace Sys2Proof

/-- One constructor per row of the opcode table. The first six are commands of the host's byte stream (R76 to R86), the next
four are symbols, executed from `SYM[RD]` by a firing `POLL` (R143, R160), the rest are 5-bit codes, executed by the render of
a `SETMSG` (R123, R124). -/
inductive Instr where
  /-- `SETFREQ imm`: format F4, opcode byte 0x01 (R78, R80, R178). -/
  | setfreq (imm : Word)
  /-- `SETMSG text`: format FS, opcode byte 0x02 (R79, R80, R176). -/
  | setmsg (text : List Byte)
  /-- `SETDELAY imm`: format F4, opcode byte 0x03 (R78, R80, R180). -/
  | setdelay (imm : Word)
  /-- `POLL`: format F0, opcode byte 0x04 (R77, R80, R177). -/
  | poll
  /-- A reserved command byte, 0x00 or 0x05 to 0xFF (R82, R182). -/
  | reserved (opcode : Byte)
  /-- The pseudo-instruction `STOP`, `SETMSG ""` (R86). A decoder never answers it (R87). -/
  | stop
  /-- Symbol 0, Silence (R161). -/
  | sil
  /-- Symbol 1, Mark (R162). -/
  | mark
  /-- Symbol 2, Space (R163). -/
  | space
  /-- The invalid symbol value 3 (R71, R164). -/
  | symInvalid
  /-- Code 0x1F, the shift-to-letters sentinel (R74). -/
  | codeLtrs
  /-- Code 0x1B, the shift-to-figures sentinel (R74). -/
  | codeFigs
  /-- Code 0x00, unused, never produced by the codec (R74). -/
  | codeUnused
  /-- Code 0x01: T in Letters, 5 in Figures (R53, R74). -/
  | char01
  /-- Code 0x02: CR in Letters, CR in Figures (R53, R74). -/
  | char02
  /-- Code 0x03: O in Letters, 9 in Figures (R53, R74). -/
  | char03
  /-- Code 0x04: SP in Letters, SP in Figures (R53, R74). -/
  | char04
  /-- Code 0x05: H in Letters, # in Figures (R53, R74). -/
  | char05
  /-- Code 0x06: N in Letters, , in Figures (R53, R74). -/
  | char06
  /-- Code 0x07: M in Letters, . in Figures (R53, R74). -/
  | char07
  /-- Code 0x08: LF in Letters, LF in Figures (R53, R74). -/
  | char08
  /-- Code 0x09: L in Letters, ) in Figures (R53, R74). -/
  | char09
  /-- Code 0x0A: R in Letters, 4 in Figures (R53, R74). -/
  | char0A
  /-- Code 0x0B: G in Letters, & in Figures (R53, R74). -/
  | char0B
  /-- Code 0x0C: I in Letters, 8 in Figures (R53, R74). -/
  | char0C
  /-- Code 0x0D: P in Letters, 0 in Figures (R53, R74). -/
  | char0D
  /-- Code 0x0E: C in Letters, : in Figures (R53, R74). -/
  | char0E
  /-- Code 0x0F: V in Letters, ; in Figures (R53, R74). -/
  | char0F
  /-- Code 0x10: E in Letters, 3 in Figures (R53, R74). -/
  | char10
  /-- Code 0x11: Z in Letters, quotation mark in Figures (R53, R74). -/
  | char11
  /-- Code 0x12: D in Letters, $ in Figures (R53, R74). -/
  | char12
  /-- Code 0x13: B in Letters, ? in Figures (R53, R74). -/
  | char13
  /-- Code 0x14: S in Letters, BEL in Figures (R53, R74). -/
  | char14
  /-- Code 0x15: Y in Letters, 6 in Figures (R53, R74). -/
  | char15
  /-- Code 0x16: F in Letters, ! in Figures (R53, R74). -/
  | char16
  /-- Code 0x17: X in Letters, / in Figures (R53, R74). -/
  | char17
  /-- Code 0x18: A in Letters, - in Figures (R53, R74). -/
  | char18
  /-- Code 0x19: W in Letters, 2 in Figures (R53, R74). -/
  | char19
  /-- Code 0x1A: J in Letters, ' in Figures (R53, R74). -/
  | char1A
  /-- Code 0x1C: U in Letters, 7 in Figures (R53, R74). -/
  | char1C
  /-- Code 0x1D: Q in Letters, 1 in Figures (R53, R74). -/
  | char1D
  /-- Code 0x1E: K in Letters, ( in Figures (R53, R74). -/
  | char1E
deriving DecidableEq, Repr

end Sys2Proof
end

