-- ==== Sys2Proof/Machine/Dispatch.lean ====
section
/-! DEFINITION. The dispatch: one arm per constructor of `Instr`. -/

namespace Sys2Proof.Machine

def exec (i : Instr) (s : State) : Host.Outcome State Fault Refusal :=
  match i with
  | .setfreq imm => Sys2Proof.Machine.execSetfreq imm s
  | .setmsg text => Sys2Proof.Machine.execSetmsg text s
  | .setdelay imm => Sys2Proof.Machine.execSetdelay imm s
  | .poll => Sys2Proof.Machine.execPoll s
  | .reserved opcode => Sys2Proof.Machine.execReserved opcode s
  | .stop => Sys2Proof.Machine.execStop s
  | .sil => Sys2Proof.Machine.execSil s
  | .mark => Sys2Proof.Machine.execMark s
  | .space => Sys2Proof.Machine.execSpace s
  | .symInvalid => Sys2Proof.Machine.execSymInvalid s
  | .codeLtrs => Sys2Proof.Machine.execCodeLtrs s
  | .codeFigs => Sys2Proof.Machine.execCodeFigs s
  | .codeUnused => Sys2Proof.Machine.execCodeUnused s
  | .char01 => Sys2Proof.Machine.execChar01 s
  | .char02 => Sys2Proof.Machine.execChar02 s
  | .char03 => Sys2Proof.Machine.execChar03 s
  | .char04 => Sys2Proof.Machine.execChar04 s
  | .char05 => Sys2Proof.Machine.execChar05 s
  | .char06 => Sys2Proof.Machine.execChar06 s
  | .char07 => Sys2Proof.Machine.execChar07 s
  | .char08 => Sys2Proof.Machine.execChar08 s
  | .char09 => Sys2Proof.Machine.execChar09 s
  | .char0A => Sys2Proof.Machine.execChar0A s
  | .char0B => Sys2Proof.Machine.execChar0B s
  | .char0C => Sys2Proof.Machine.execChar0C s
  | .char0D => Sys2Proof.Machine.execChar0D s
  | .char0E => Sys2Proof.Machine.execChar0E s
  | .char0F => Sys2Proof.Machine.execChar0F s
  | .char10 => Sys2Proof.Machine.execChar10 s
  | .char11 => Sys2Proof.Machine.execChar11 s
  | .char12 => Sys2Proof.Machine.execChar12 s
  | .char13 => Sys2Proof.Machine.execChar13 s
  | .char14 => Sys2Proof.Machine.execChar14 s
  | .char15 => Sys2Proof.Machine.execChar15 s
  | .char16 => Sys2Proof.Machine.execChar16 s
  | .char17 => Sys2Proof.Machine.execChar17 s
  | .char18 => Sys2Proof.Machine.execChar18 s
  | .char19 => Sys2Proof.Machine.execChar19 s
  | .char1A => Sys2Proof.Machine.execChar1A s
  | .char1C => Sys2Proof.Machine.execChar1C s
  | .char1D => Sys2Proof.Machine.execChar1D s
  | .char1E => Sys2Proof.Machine.execChar1E s

end Sys2Proof.Machine
end

