-- ==== Sys2Proof/WellFormed.lean ====
section
/-! DEFINITION. Which terms of `Instr` some encoding stands for: spec/30_encoding.md rules R79 (the text of a `SETMSG` holds
no 0x00) and R82 (a reserved byte is 0x00 or 0x05 to 0xFF). -/

namespace Sys2Proof

/-- R80, R82: the opcode byte is none of the four assigned ones. -/
def reservedByte (b : Byte) : Bool :=
  b != 0x01#8 && b != 0x02#8 && b != 0x03#8 && b != 0x04#8

/-- R79: no text byte is the terminator. -/
def textNonZero (text : List Byte) : Bool :=
  text.all fun b => b != 0x00#8

/-- Well-formed instructions. Every 32-bit immediate is legal (R83), so only texts and reserved bytes are checked. -/
def Instr.wellFormed : Instr → Bool
  | .setmsg text => textNonZero text
  | .reserved opcode => reservedByte opcode
  | .setfreq _ | .setdelay _ | .poll | .stop => true
  | .sil | .mark | .space | .symInvalid => true
  | .codeLtrs | .codeFigs | .codeUnused => true
  | .char01 | .char02 | .char03 | .char04 | .char05 | .char06 | .char07 | .char08 => true
  | .char09 | .char0A | .char0B | .char0C | .char0D | .char0E | .char0F | .char10 => true
  | .char11 | .char12 | .char13 | .char14 | .char15 | .char16 | .char17 | .char18 => true
  | .char19 | .char1A | .char1C | .char1D | .char1E => true

/-- The instructions of the command stream (R80, R86), as against the symbols and the codes (R87). -/
def Instr.isCommand : Instr → Bool
  | .setfreq _ | .setmsg _ | .setdelay _ | .poll | .reserved _ | .stop => true
  | .sil | .mark | .space | .symInvalid => false
  | .codeLtrs | .codeFigs | .codeUnused => false
  | .char01 | .char02 | .char03 | .char04 | .char05 | .char06 | .char07 | .char08 => false
  | .char09 | .char0A | .char0B | .char0C | .char0D | .char0E | .char0F | .char10 => false
  | .char11 | .char12 | .char13 | .char14 | .char15 | .char16 | .char17 | .char18 => false
  | .char19 | .char1A | .char1C | .char1D | .char1E => false

end Sys2Proof
end

