-- ==== Sys2Proof/Decode.lean ====
section
/-! DEFINITION. The three decoders and the encoder: the command stream (spec/30_encoding.md rules R76 to R84), the symbol
dispatch (R70, R71) and the code space (R72, R74), each written from the rows of its own group of the opcode table (R87). -/

namespace Sys2Proof

/-- Why the command decoder has no instruction yet. Neither is an error: the decoder waits for more bytes (R84). -/
inductive DecodeRefusal where
  /-- No opcode byte has arrived. -/
  | noOpcode
  /-- The command with this opcode byte lacks its last byte (R84). -/
  | incomplete (opcode : Byte)
deriving DecidableEq, Repr

/-- What the command decoder reads from a list of bytes. -/
inductive Decoded where
  /-- A whole command, and the bytes after it. -/
  | instr (i : Instr) (rest : List Byte)
  /-- No whole command. -/
  | refused (r : DecodeRefusal)
deriving DecidableEq, Repr

/-- R81: `imm = byte1 | byte2 << 8 | byte3 << 16 | byte4 << 24`. -/
def imm32 (b1 b2 b3 b4 : Byte) : Word :=
  b1.setWidth 32 ||| b2.setWidth 32 <<< 8 ||| b3.setWidth 32 <<< 16 ||| b4.setWidth 32 <<< 24

/-- The immediate of a format F4 command, and the bytes after it (R78). -/
def takeImm : List Byte → Option (Word × List Byte)
  | b1 :: b2 :: b3 :: b4 :: rest => some (imm32 b1 b2 b3 b4, rest)
  | _ => none

/-- The text of a format FS command, the bytes before the first 0x00, and the bytes after that 0x00 (R79, R127). -/
def takeText : List Byte → Option (List Byte × List Byte)
  | [] => none
  | b :: bytes =>
    if b = 0x00#8 then some ([], bytes)
    else match takeText bytes with
      | some (text, rest) => some (b :: text, rest)
      | none => none

/-- The command decoder (R76 to R84): the opcode byte alone fixes the format (R80). -/
def decode : List Byte → Decoded
  | [] => .refused .noOpcode
  | opcode :: bytes =>
    if opcode = 0x01#8 then
      match takeImm bytes with
      | some (imm, rest) => .instr (.setfreq imm) rest
      | none => .refused (.incomplete opcode)
    else if opcode = 0x02#8 then
      match takeText bytes with
      | some (text, rest) => .instr (.setmsg text) rest
      | none => .refused (.incomplete opcode)
    else if opcode = 0x03#8 then
      match takeImm bytes with
      | some (imm, rest) => .instr (.setdelay imm) rest
      | none => .refused (.incomplete opcode)
    else if opcode = 0x04#8 then .instr .poll bytes
    else .instr (.reserved opcode) bytes

/-- The symbol decoder (R70, R71): total on 2-bit cells. -/
def decodeSym (v : Sym) : Instr :=
  if v = 0#2 then .sil else if v = 1#2 then .mark else if v = 2#2 then .space else .symInvalid

/-- The rows of the code space in the order of their codes, 0x00 first (R53, R74). -/
def codeRows : List Instr :=
   [.codeUnused, .char01, .char02, .char03, .char04, .char05, .char06, .char07,
    .char08, .char09, .char0A, .char0B, .char0C, .char0D, .char0E, .char0F,
    .char10, .char11, .char12, .char13, .char14, .char15, .char16, .char17,
    .char18, .char19, .char1A, .codeFigs, .char1C, .char1D, .char1E, .codeLtrs]

/-- The code decoder (R74): total on 5-bit codes. -/
def decodeCode (c : Code) : Instr :=
  codeRows.getD c.toNat .codeUnused

/-- An encoded instruction, in the space of its group (R87). -/
inductive Encoding where
  /-- The bytes of a command (formats F0, F4, FS). -/
  | bytes (bs : List Byte)
  /-- A 2-bit symbol cell (group SYM). -/
  | cell (v : Sym)
  /-- A 5-bit code (groups CODE and ROM). -/
  | code (c : Code)
deriving DecidableEq, Repr

/-- The four bytes of an immediate, least significant first (R78). -/
def immBytes (imm : Word) : List Byte :=
  [imm.extractLsb' 0 8, imm.extractLsb' 8 8, imm.extractLsb' 16 8, imm.extractLsb' 24 8]

/-- The encoder, from the formats of R77 to R80, the symbol values of R70 and R71 and the codes of R53 and R74. -/
def encode : Instr → Encoding
  | .setfreq imm => .bytes (0x01#8 :: immBytes imm)
  | .setmsg text => .bytes (0x02#8 :: text ++ [0x00#8])
  | .setdelay imm => .bytes (0x03#8 :: immBytes imm)
  | .poll => .bytes [0x04#8]
  | .reserved opcode => .bytes [opcode]
  | .stop => .bytes [0x02#8, 0x00#8]
  | .sil => .cell 0#2
  | .mark => .cell 1#2
  | .space => .cell 2#2
  | .symInvalid => .cell 3#2
  | .codeUnused => .code 0x00#5
  | .char01 => .code 0x01#5
  | .char02 => .code 0x02#5
  | .char03 => .code 0x03#5
  | .char04 => .code 0x04#5
  | .char05 => .code 0x05#5
  | .char06 => .code 0x06#5
  | .char07 => .code 0x07#5
  | .char08 => .code 0x08#5
  | .char09 => .code 0x09#5
  | .char0A => .code 0x0A#5
  | .char0B => .code 0x0B#5
  | .char0C => .code 0x0C#5
  | .char0D => .code 0x0D#5
  | .char0E => .code 0x0E#5
  | .char0F => .code 0x0F#5
  | .char10 => .code 0x10#5
  | .char11 => .code 0x11#5
  | .char12 => .code 0x12#5
  | .char13 => .code 0x13#5
  | .char14 => .code 0x14#5
  | .char15 => .code 0x15#5
  | .char16 => .code 0x16#5
  | .char17 => .code 0x17#5
  | .char18 => .code 0x18#5
  | .char19 => .code 0x19#5
  | .char1A => .code 0x1A#5
  | .codeFigs => .code 0x1B#5
  | .char1C => .code 0x1C#5
  | .char1D => .code 0x1D#5
  | .char1E => .code 0x1E#5
  | .codeLtrs => .code 0x1F#5

/-- The bytes of a command; empty for a symbol or a code, which has no encoding in the command stream. -/
def encodeBytes (i : Instr) : List Byte :=
  match encode i with
  | .bytes bs => bs
  | .cell _ | .code _ => []

/-- The decoder of the space an encoding lies in. A command must be there whole, with nothing after it. -/
def decodeEncoding : Encoding → Option Instr
  | .bytes bs =>
    match decode bs with
    | .instr i [] => some i
    | .instr _ (_ :: _) | .refused _ => none
  | .cell v => some (decodeSym v)
  | .code c => some (decodeCode c)

/-- R86, R87: a decoder ignores the pseudo-instruction `STOP` and reads its bytes as `SETMSG ""`. -/
def Instr.canonical (i : Instr) : Instr :=
  if i = .stop then .setmsg [] else i

/-- A word of the opcode table in the space of its group. -/
inductive TableWord where
  /-- Bytes of the command stream, five zero bytes after them. -/
  | command (bs : List Byte)
  /-- A symbol cell. -/
  | cell (v : Sym)
  /-- A code. -/
  | code (c : Code)
deriving DecidableEq, Repr

/-- The bytes of a number, least significant first. -/
def wordBytes (n w : Nat) : List Byte :=
  (List.range n).map fun k => BitVec.ofNat 8 (w / 256 ^ k)

/-- DESIGN CHOICE (log 21). The groups of the table share their words: 0x06 is a reserved command byte and the code of
`CHAR_06`. Only the row's `format` tells them apart (R87). A width of 2 or 5 bits names the symbol or the code group. A word of
8 bits is read as the FIRST row of the table, in table order and with `RESERVED` last (its row's priority), whose fixed bits
it equals: 0x01 to 0x04 are commands, 0x00 is `SIL`, the other words below 0x20 are codes. Every other word is bytes of the
command stream. `step` never uses this function: it decodes the command stream with `decode`. -/
def tableWord (nbits w : Nat) : TableWord :=
  if nbits = 2 then .cell (BitVec.ofNat 2 w)
  else if nbits = 5 then .code (BitVec.ofNat 5 w)
  else if nbits = 8 ∧ w = 0 then .cell 0#2
  else if nbits = 8 ∧ 5 ≤ w ∧ w < 32 then .code (BitVec.ofNat 5 w)
  else .command (wordBytes ((nbits + 7) / 8) w ++ List.replicate 5 0x00#8)

/-- The instruction a word of the opcode table stands for, by the decoder of the space `tableWord` finds for it. -/
def decodeTableWord (nbits w : Nat) : Option Instr :=
  match tableWord nbits w with
  | .command bs =>
    match decode bs with
    | .instr i _ => some i
    | .refused _ => none
  | .cell v => some (decodeSym v)
  | .code c => some (decodeCode c)

end Sys2Proof
end

