-- ==== Sys2Proof/Machine/Fetch.lean ====
section
/-! DEFINITION. Receiving the next command from the command port: spec/30_encoding.md rules R76 and R84, spec/10_state.md rule
R34, spec/70_reset_and_hazards.md rule R223; and placing one instruction where the next step runs it. -/

namespace Sys2Proof.Machine

/-- What receiving comes to (log 1). -/
inductive Received where
  /-- The last byte of a command has arrived: the clock reads `now`, the events `es` are still to come. -/
  | command (i : Instr) (now : Word) (es : List PinEvent)
  /-- `rst` was asserted before a command was complete. -/
  | reset (now : Word) (es : List PinEvent)
  /-- No event is left: the decoder keeps the bytes `dec` and waits (R84). -/
  | waiting (dec : List Byte) (now : Word)
deriving DecidableEq, Repr

/-- Takes events in order until a command is complete or `rst` is asserted. `dec` is what the decoder holds so far; a byte
joins it, a clock event changes the clock's level only. -/
def receive (dec : List Byte) (now : Word) : List PinEvent → Received
  | [] => .waiting dec now
  | .reset :: es => .reset now es
  | .resetDuring _ :: es => .reset now es
  | .clock t :: es => receive dec t es
  | .byte b :: es =>
    match decode (dec ++ [b]) with
    | .instr i rest => .command i now (rest.map PinEvent.byte ++ es)
    | .refused _ => receive (dec ++ [b]) now es

/-- What the next step does, and the state it does it in: the bytes the decoder holds count first, then the events to come. -/
inductive Fetched where
  /-- Execute this instruction in this state (R84: as one atomic operation, when its last byte has arrived). -/
  | run (i : Instr) (s : State)
  /-- Execute this instruction in this state, abandoned by a reset when it has issued so many commands (R223). -/
  | cut (i : Instr) (issued : Nat) (s : State)
  /-- Take the reset in this state. -/
  | reset (s : State)
  /-- Nothing more arrives: this is the state in which the core waits. -/
  | wait (s : State)
deriving DecidableEq, Repr

/-- Fetching the next command of the stream (R76, R84). -/
def fetch (s : State) : Fetched :=
  match receive [] s.nowMs (s.dec.map PinEvent.byte ++ s.port) with
  | .command i now (.resetDuring issued :: es) => .cut i issued (((s.setDec []).setNowMs now).setPort es)
  | .command i now es => .run i (((s.setDec []).setNowMs now).setPort es)
  | .reset now es => .reset (((s.setDec []).setNowMs now).setPort es)
  | .waiting dec now => .wait (((s.setDec dec).setNowMs now).setPort [])

/-- The bytes of the first command in `bs`, without what follows it. -/
def firstCommand (bs : List Byte) : List Byte :=
  match decode bs with
  | .instr _ rest => bs.take (bs.length - rest.length)
  | .refused _ => bs

/-- Bytes at the command port, before the events that were to come, with no partial command before them. -/
def placeBytes (bs : List Byte) (s : State) : State :=
  (s.setDec []).setPort (bs.map PinEvent.byte ++ s.port)

/-- A symbol where the next `POLL` reads it, and a `POLL` that fires at the port: an empty stream is made one cell long, the
clock reads 22 ms after `LAST` (log 21). -/
def placeSym (v : Sym) (s : State) : State :=
  let t := if s.rd.toNat < s.wr.toNat then s else (s.setWr 1#12).setRd 0#11
  let u := t.setSym (t.sym.write t.rd.toNat v)
  (u.setDec []).setPort (.clock (u.last + hw.symbolMs) :: .byte 0x04#8 :: u.port)

/-- A text whose render executes code `c`: its Letters character, else its Figures character; an unsupported character for
`CODE_LTRS`, which every non-empty render executes (R125); a Figures character for `CODE_FIGS`. No text makes the codec
produce code 0 (R74, R110). -/
def codeText (c : Code) : Option (List Byte) :=
  if c.toNat = hw.codeLtrs.toNat then some [0x80#8]
  else if c.toNat = hw.codeFigs.toNat then some [Config.romRead hw.rom.figs 1]
  else if c = 0#5 then none
  else if Config.romRead hw.rom.ltrs c.toNat ≠ Config.romNone then some [Config.romRead hw.rom.ltrs c.toNat]
  else some [Config.romRead hw.rom.figs c.toNat]

/-- A `SETMSG` whose render executes code `c` at the port (log 21); for code 0, which nothing executes, no event is added. -/
def placeCode (c : Code) (s : State) : State :=
  match codeText c with
  | some text => placeBytes (encodeBytes (.setmsg text)) s
  | none => s.setDec []

/-- A word of the opcode table where the next step runs it. -/
def placeWord (nbits w : Nat) (s : State) : State :=
  match tableWord nbits w with
  | .command bs => placeBytes (firstCommand bs) s
  | .cell v => placeSym v s
  | .code c => placeCode c s

end Sys2Proof.Machine
end

