-- ==== Sys2Proof/Machine/Step.lean ====
section
/-! DEFINITION. One step of the machine: the transaction of spec/00_scope.md rule R4, a reset, or waiting for the host. -/

namespace Sys2Proof.Machine

/-- One step (log 1): receive the next command and execute it as one atomic operation (R4, R84), which only a reset can cut
short (R223); or take a reset that comes before it is complete (R223); or wait, keeping a partial command, when nothing more is
presented (R84). -/
def step (s : State) : Host.Outcome State Fault Refusal :=
  match fetch s with
  | .run i t => exec i t
  | .cut i issued t =>
    match exec i t with
    | .next u => .next (abandon t u issued)
    | .fault r => .fault r
    | .refused r => .refused r
  | .reset t => .next (takeReset t)
  | .wait t => .next t

/-- `s` with the table's instruction word placed where the next step runs it: a command at the command port, a symbol at
`SYM[RD]` with a firing `POLL` at the port, a code inside a `SETMSG` that executes it (log 4, log 21). -/
def State.withFetchWord (s : State) (nbits w : Nat) : State := placeWord nbits w s

end Sys2Proof.Machine
end

