-- ==== Sys2Proof/Laws/PerInstr.lean ====
section
/-! SUPPORT. Statements made per instruction, one lemma per constructor of `Instr`. -/

namespace Sys2Proof.Laws

/-- How many bytes a command's format gives it (spec/30_encoding.md rules R77 to R79, R86); 0 for a symbol or a code, which is
no command. -/
def formatBytes : Instr → Nat
  | .setfreq _ | .setdelay _ => 5
  | .setmsg text => text.length + 2
  | .poll | .reserved _ => 1
  | .stop => 2
  | .sil | .mark | .space | .symInvalid => 0
  | .codeLtrs | .codeFigs | .codeUnused => 0
  | .char01 | .char02 | .char03 | .char04 | .char05 | .char06 | .char07 | .char08 => 0
  | .char09 | .char0A | .char0B | .char0C | .char0D | .char0E | .char0F | .char10 => 0
  | .char11 | .char12 | .char13 | .char14 | .char15 | .char16 | .char17 | .char18 => 0
  | .char19 | .char1A | .char1C | .char1D | .char1E => 0

/-- The encoding of an instruction has the length of its format (R77 to R79, R84). -/
def FormatLength.Statement (i : Instr) : Prop := (encodeBytes i).length = formatBytes i

theorem FormatLength.setfreq (imm : Word) : FormatLength.Statement (.setfreq imm) := rfl

theorem FormatLength.setmsg (text : List Byte) : FormatLength.Statement (.setmsg text) := by
  simp [FormatLength.Statement, encodeBytes, encode, formatBytes]

theorem FormatLength.setdelay (imm : Word) : FormatLength.Statement (.setdelay imm) := rfl

theorem FormatLength.poll : FormatLength.Statement .poll := rfl

theorem FormatLength.reserved (opcode : Byte) : FormatLength.Statement (.reserved opcode) := rfl

theorem FormatLength.stop : FormatLength.Statement .stop := rfl

theorem FormatLength.sil : FormatLength.Statement .sil := rfl

theorem FormatLength.mark : FormatLength.Statement .mark := rfl

theorem FormatLength.space : FormatLength.Statement .space := rfl

theorem FormatLength.symInvalid : FormatLength.Statement .symInvalid := rfl

theorem FormatLength.codeLtrs : FormatLength.Statement .codeLtrs := rfl

theorem FormatLength.codeFigs : FormatLength.Statement .codeFigs := rfl

theorem FormatLength.codeUnused : FormatLength.Statement .codeUnused := rfl

theorem FormatLength.char01 : FormatLength.Statement .char01 := rfl

theorem FormatLength.char02 : FormatLength.Statement .char02 := rfl

theorem FormatLength.char03 : FormatLength.Statement .char03 := rfl

theorem FormatLength.char04 : FormatLength.Statement .char04 := rfl

theorem FormatLength.char05 : FormatLength.Statement .char05 := rfl

theorem FormatLength.char06 : FormatLength.Statement .char06 := rfl

theorem FormatLength.char07 : FormatLength.Statement .char07 := rfl

theorem FormatLength.char08 : FormatLength.Statement .char08 := rfl

theorem FormatLength.char09 : FormatLength.Statement .char09 := rfl

theorem FormatLength.char0A : FormatLength.Statement .char0A := rfl

theorem FormatLength.char0B : FormatLength.Statement .char0B := rfl

theorem FormatLength.char0C : FormatLength.Statement .char0C := rfl

theorem FormatLength.char0D : FormatLength.Statement .char0D := rfl

theorem FormatLength.char0E : FormatLength.Statement .char0E := rfl

theorem FormatLength.char0F : FormatLength.Statement .char0F := rfl

theorem FormatLength.char10 : FormatLength.Statement .char10 := rfl

theorem FormatLength.char11 : FormatLength.Statement .char11 := rfl

theorem FormatLength.char12 : FormatLength.Statement .char12 := rfl

theorem FormatLength.char13 : FormatLength.Statement .char13 := rfl

theorem FormatLength.char14 : FormatLength.Statement .char14 := rfl

theorem FormatLength.char15 : FormatLength.Statement .char15 := rfl

theorem FormatLength.char16 : FormatLength.Statement .char16 := rfl

theorem FormatLength.char17 : FormatLength.Statement .char17 := rfl

theorem FormatLength.char18 : FormatLength.Statement .char18 := rfl

theorem FormatLength.char19 : FormatLength.Statement .char19 := rfl

theorem FormatLength.char1A : FormatLength.Statement .char1A := rfl

theorem FormatLength.char1C : FormatLength.Statement .char1C := rfl

theorem FormatLength.char1D : FormatLength.Statement .char1D := rfl

theorem FormatLength.char1E : FormatLength.Statement .char1E := rfl

end Sys2Proof.Laws
end

