-- ==== Sys2Proof/Safety.lean ====
section
/-! DEFINITION. The terms claims are stated in: the invariant of spec/10_state.md rule R28, the premises on the host and the
clock (spec/92_eei_decisions.md D15, D16), the frames of what an operation leaves alone, and the pure reading of a render. -/

namespace Sys2Proof.Machine

/-- The codes `ENCODE_CHAR` returns over a text, in order, from shift state `figs` (R104, R125 step 4). -/
def textCodes {k : Config.CodeSpace} (r : Config.RomPair k) : List Byte → Bool → List (BitVec k.codeW)
  | [], _ => []
  | ch :: text, figs => (encodeChar r ch figs).1 ++ textCodes r text (encodeChar r ch figs).2

/-- The shift state the codec ends a text in (R104). -/
def textMode {k : Config.CodeSpace} (r : Config.RomPair k) : List Byte → Bool → Bool
  | [], figs => figs
  | ch :: text, figs => textMode r text (encodeChar r ch figs).2

/-- The untruncated stream of a text (R125, R126): nothing for the empty text; else the preamble, the Letters-shift frame and
the frame of every code. -/
def messageSyms (p : Config.Params) (text : List Byte) : List Sym :=
  if text = [] ∧ p.emptyMsgIdle = true then []
  else List.replicate p.preambleMarks symMark ++ expand p.toCodeSpace p.codeLtrs ++
    (textCodes p.rom text false).flatMap (expand p.toCodeSpace)

/-- R28: the invariant of the state. `cells` speaks of what the memory lists, so a cell inside the stream is never one that
nothing has written. -/
structure State.Inv (s : State) : Prop where
  /-- The symbol memory has its canonical form. -/
  memory : s.sym.wf
  /-- Only cells of the address space of R50 are listed. -/
  within : ∀ c ∈ s.sym, c.1 < hw.capacity
  /-- `0 <= WR <= CAPACITY`. -/
  wr_le : s.wr.toNat ≤ hw.capacity
  /-- If `WR > 0` then `RD < WR`. -/
  rd_lt : 0 < s.wr.toNat → s.rd.toNat < s.wr.toNat
  /-- If `WR = 0` then `RD = 0`. -/
  rd_zero : s.wr.toNat = 0 → s.rd = 0
  /-- Every cell of the stream holds `MARK` or `SPACE`. -/
  cells : ∀ a < s.wr.toNat, s.sym.read a = some symMark ∨ s.sym.read a = some symSpace

/-- R34: the decoder holds no whole command, only the beginning of one. -/
def State.decPartial (s : State) : Prop := ∃ r, decode s.dec = .refused r

/-- The events to come never show the clock an earlier time than before (R210, D16), from level `now` on. -/
def clockMonotone (now : Word) : List PinEvent → Prop
  | [] => True
  | .clock t :: es => now.toNat ≤ t.toNat ∧ clockMonotone t es
  | .byte _ :: es => clockMonotone now es
  | .reset :: es => clockMonotone now es
  | .resetDuring _ :: es => clockMonotone now es

/-- The premise on the clock in a state (D16): it never steps back, and `LAST` is no later than it. -/
def State.ClockMonotone (s : State) : Prop :=
  s.last.toNat ≤ s.nowMs.toNat ∧ clockMonotone s.nowMs s.port

/-- Clock samples that each come at least 22 ms after the one before, from `last` on, without a wrap. -/
def spaced (last : Word) : List Word → Prop
  | [] => True
  | t :: ts => last.toNat + 22 ≤ t.toNat ∧ spaced t ts

/-- The events of one `POLL @ t` (R85). -/
def pollEvents (t : Word) : List PinEvent := [.clock t, .byte 0x04#8]

/-- Is this event an assertion of `rst` (R220)? -/
def PinEvent.isReset : PinEvent → Bool
  | .reset | .resetDuring _ => true
  | .byte _ | .clock _ => false

/-- The bytes among the events, in order: what the host sends, whatever the clock does between (R76, R210). -/
def eventBytes : List PinEvent → List Byte
  | [] => []
  | .byte b :: es => b :: eventBytes es
  | .clock _ :: es | .reset :: es | .resetDuring _ :: es => eventBytes es

/-- The clock's level after the events, from level `now` on (R210). -/
def clockAfter (now : Word) : List PinEvent → Word
  | [] => now
  | .clock t :: es => clockAfter t es
  | .byte _ :: es | .reset :: es | .resetDuring _ :: es => clockAfter now es

/-- The rows of the groups CODE and ROM with the frame spec/opcode_table.json writes beside each. -/
def frameRows : List (Instr × List Sym) :=
  [(.codeLtrs, [symSpace, symMark, symMark, symMark, symMark, symMark, symMark, symMark]),
   (.codeFigs, [symSpace, symMark, symMark, symSpace, symMark, symMark, symMark, symMark]),
   (.codeUnused, [symSpace, symSpace, symSpace, symSpace, symSpace, symSpace, symMark, symMark]),
   (.char01, [symSpace, symSpace, symSpace, symSpace, symSpace, symMark, symMark, symMark]),
   (.char02, [symSpace, symSpace, symSpace, symSpace, symMark, symSpace, symMark, symMark]),
   (.char03, [symSpace, symSpace, symSpace, symSpace, symMark, symMark, symMark, symMark]),
   (.char04, [symSpace, symSpace, symSpace, symMark, symSpace, symSpace, symMark, symMark]),
   (.char05, [symSpace, symSpace, symSpace, symMark, symSpace, symMark, symMark, symMark])] ++
  [(.char06, [symSpace, symSpace, symSpace, symMark, symMark, symSpace, symMark, symMark]),
   (.char07, [symSpace, symSpace, symSpace, symMark, symMark, symMark, symMark, symMark]),
   (.char08, [symSpace, symSpace, symMark, symSpace, symSpace, symSpace, symMark, symMark]),
   (.char09, [symSpace, symSpace, symMark, symSpace, symSpace, symMark, symMark, symMark]),
   (.char0A, [symSpace, symSpace, symMark, symSpace, symMark, symSpace, symMark, symMark]),
   (.char0B, [symSpace, symSpace, symMark, symSpace, symMark, symMark, symMark, symMark]),
   (.char0C, [symSpace, symSpace, symMark, symMark, symSpace, symSpace, symMark, symMark]),
   (.char0D, [symSpace, symSpace, symMark, symMark, symSpace, symMark, symMark, symMark])] ++
  [(.char0E, [symSpace, symSpace, symMark, symMark, symMark, symSpace, symMark, symMark]),
   (.char0F, [symSpace, symSpace, symMark, symMark, symMark, symMark, symMark, symMark]),
   (.char10, [symSpace, symMark, symSpace, symSpace, symSpace, symSpace, symMark, symMark]),
   (.char11, [symSpace, symMark, symSpace, symSpace, symSpace, symMark, symMark, symMark]),
   (.char12, [symSpace, symMark, symSpace, symSpace, symMark, symSpace, symMark, symMark]),
   (.char13, [symSpace, symMark, symSpace, symSpace, symMark, symMark, symMark, symMark]),
   (.char14, [symSpace, symMark, symSpace, symMark, symSpace, symSpace, symMark, symMark]),
   (.char15, [symSpace, symMark, symSpace, symMark, symSpace, symMark, symMark, symMark])] ++
  [(.char16, [symSpace, symMark, symSpace, symMark, symMark, symSpace, symMark, symMark]),
   (.char17, [symSpace, symMark, symSpace, symMark, symMark, symMark, symMark, symMark]),
   (.char18, [symSpace, symMark, symMark, symSpace, symSpace, symSpace, symMark, symMark]),
   (.char19, [symSpace, symMark, symMark, symSpace, symSpace, symMark, symMark, symMark]),
   (.char1A, [symSpace, symMark, symMark, symSpace, symMark, symSpace, symMark, symMark]),
   (.char1C, [symSpace, symMark, symMark, symMark, symSpace, symSpace, symMark, symMark]),
   (.char1D, [symSpace, symMark, symMark, symMark, symSpace, symMark, symMark, symMark]),
   (.char1E, [symSpace, symMark, symMark, symMark, symMark, symSpace, symMark, symMark])]

/-- `n` steps, stopping at the first that gives no next state. -/
def State.run (s : State) : Nat → Host.Outcome State Fault Refusal
  | 0 => .next s
  | n + 1 =>
    match step s with
    | .next t => t.run n
    | .fault r => .fault r
    | .refused r => .refused r

/-- Does the next step clear the cursor: execute a `SETMSG` (R121), or take a reset (R221, R223)? -/
def State.restarts (s : State) : Bool :=
  match fetch s with
  | .run (.setmsg _) _ | .run .stop _ | .cut _ _ _ | .reset _ => true
  | .run _ _ | .wait _ => false

/-- None of the next `n` steps clears the cursor. -/
def State.undisturbed (s : State) : Nat → Prop
  | 0 => True
  | n + 1 => s.restarts = false ∧ ∀ t, step s = .next t → t.undisturbed n

end Sys2Proof.Machine
end

