-- ==== Sys2Proof/Certificates/Slice0/Obligations.lean ====
section
/-! DEFINITION. The statements for the provers. Each docstring names the rule or the section of spec/ it formalises, and the
decision D<n> of spec/92_eei_decisions.md or the log entry it rests on where the source itself is silent. -/

open Sys2Proof Sys2Proof.Machine

/-! ## The step, the decoder at the port, reset -/

/-- spec/30_encoding.md section 5 (incomplete commands; decision D20) and spec/60_exceptions.md section 6: when the bytes the
decoder holds and the bytes that arrive, with any clock changes between them, are one whole command, and no reset cuts it short,
the step executes exactly it when its last byte arrives: with the clock's level of that moment (log 3), the decoder empty and
the later events still to come. -/
def Obligations.StepRunsTheReceivedCommand : Prop :=
  ∀ (s : State) (evs es : List PinEvent) (i : Instr),
    s.port = evs ++ es → (∀ e ∈ evs, e.isReset = false) → (∀ t, evs.getLast? ≠ some (.clock t)) →
    decode (s.dec ++ eventBytes evs) = .instr i [] → (∀ k, es.head? ≠ some (.resetDuring k)) →
      i.wellFormed = true ∧ step s = exec i (((s.setDec []).setNowMs (clockAfter s.nowMs evs)).setPort es)

/-- spec/42_timing_fsm.md section 2 and spec/30_encoding.md section 6 (`POLL @ t`; decisions D16, D19): a poll samples the
clock's level at the moment its byte arrives. -/
def Obligations.StepPollsAtTheClockSample : Prop :=
  ∀ (s : State) (now : Word) (es : List PinEvent),
    s.dec = [] → s.port = pollEvents now ++ es → (∀ k, es.head? ≠ some (.resetDuring k)) →
      step s = exec .poll ((s.setNowMs now).setPort es)

/-- spec/30_encoding.md section 5 (decision D20): a command whose last byte does not arrive takes no effect; the decoder keeps
its bytes, and the clock changes between and after them only change the clock's level (log 3). That a step then ends in a
waiting state is the model's choice (log 1). -/
def Obligations.StepWaitsOnAnIncompleteCommand : Prop :=
  ∀ (s : State) (r : DecodeRefusal),
    (∀ e ∈ s.port, e.isReset = false) → decode (s.dec ++ eventBytes s.port) = .refused r →
      step s = .next (((s.setDec (s.dec ++ eventBytes s.port)).setNowMs (clockAfter s.nowMs s.port)).setPort [])

/-- spec/70_reset_and_hazards.md section 1 (decisions D14, D20): a reset that comes before a command is complete, with any
clock changes between its bytes (log 3), leaves the reset state, forgets the bytes received, and issues no VFO command. Every
cell of `SYM` is unspecified: listed nowhere. -/
def Obligations.StepTakesReset : Prop :=
  ∀ (s : State) (evs : List PinEvent) (e : PinEvent) (es : List PinEvent) (r : DecodeRefusal),
    s.port = evs ++ e :: es → (∀ v ∈ evs, v.isReset = false) → e.isReset = true →
    decode (s.dec ++ eventBytes evs) = .refused r →
      ∃ t, step s = .next t ∧ t.wr = 0 ∧ t.rd = 0 ∧ t.last = 0 ∧ t.figs = false ∧ t.base = 0 ∧ t.delay = 0 ∧
        t.dec = [] ∧ (∀ a, t.sym.read a = none) ∧ t.vfo = s.vfo ∧ t.nowMs = clockAfter s.nowMs evs ∧ t.port = es

/-- spec/70_reset_and_hazards.md section 1, reset during an operation (decisions D14, D20; log 33): a command cut short by a
reset leaves the reset state and not a mixture, whatever clock changes stand between its bytes (log 3). Of the VFO commands the
whole operation issues, the first `k` stay issued. -/
def Obligations.ResetAbandonsAnOperation : Prop :=
  ∀ (s : State) (evs : List PinEvent) (k : Nat) (es : List PinEvent) (i : Instr),
    s.port = evs ++ .resetDuring k :: es → (∀ e ∈ evs, e.isReset = false) → (∀ t, evs.getLast? ≠ some (.clock t)) →
    decode (s.dec ++ eventBytes evs) = .instr i [] →
      ∃ u t cmds, exec i (((s.setDec []).setNowMs (clockAfter s.nowMs evs)).setPort es) = .next u ∧
        u.vfo = s.vfo ++ cmds ∧ step s = .next t ∧
        t = { State.reset with
          nowMs := clockAfter s.nowMs evs, port := es, vfo := s.vfo ++ cmds.take k, resets := s.resets + 1 }

/-- spec/10_state.md section 9 (decision D14): the state after reset satisfies the invariant, holds no partial command and
meets the premise on the clock. -/
def Obligations.InvariantHoldsAtReset : Prop :=
  State.reset.Inv ∧ State.reset.decPartial ∧ State.reset.ClockMonotone

/-- spec/10_state.md section 4, the state invariant (marked there as derived): every step keeps it, from every state that has
it, whatever the host and the clock present. -/
def Obligations.InvariantKeptByEveryStep : Prop :=
  ∀ s t : State, s.Inv → step s = .next t → t.Inv

/-- spec/30_encoding.md section 5 (decision D20): after any step, from any state, the decoder holds only the beginning of a
command. -/
def Obligations.DecoderHoldsOnlyABeginning : Prop :=
  ∀ s t : State, step s = .next t → t.decPartial

/-- R200: a next state for every operation in every state; no fault and no refusal. -/
def Obligations.EveryStepIsNext : Prop :=
  (∀ (i : Instr) (s : State), ∃ t, exec i s = .next t) ∧ ∀ s : State, ∃ t, step s = .next t

/-- spec/60_exceptions.md section 6 (decision D16): the premise that the clock never steps back and `LAST` is not in its
future holds after a step if it held before. -/
def Obligations.ClockPremiseKeptByEveryStep : Prop :=
  ∀ s t : State, s.ClockMonotone → step s = .next t → t.ClockMonotone

/-! ## The host operations -/

/-- spec/44_host_commands.md section 4: `SETFREQ` writes `BASE`, every value is accepted, and nothing else changes. -/
def Obligations.SetfreqWritesBaseOnly : Prop :=
  ∀ (imm : Word) (s : State), exec (.setfreq imm) s = .next { s with base := imm }

/-- spec/44_host_commands.md section 5: `SETDELAY` writes `DELAY`, which `delay_q` shows, and nothing else changes. -/
def Obligations.SetdelayWritesDelayOnly : Prop :=
  ∀ (imm : Word) (s : State),
    ∃ t, exec (.setdelay imm) s = .next t ∧ t = { s with delay := imm } ∧ t.delayQ = imm

/-- spec/44_host_commands.md section 6 (decision D4): a reserved command byte has no effect. -/
def Obligations.ReservedByteDoesNothing : Prop :=
  ∀ (b : Byte) (s : State), exec (.reserved b) s = .next s

/-- spec/41_queue_render.md section 4 (the value of `LAST` is decision D10): the result of `SETMSG` with a non-empty text from
any state. The stream's size is `min(CAPACITY, 11 + 8n)` for `n` codes, its cells are the leading symbols of the message, the
cells above it are as they were, and of the rest only `FIGS`, `RD` and `LAST` are written. -/
def Obligations.SetmsgRendersTheText : Prop :=
  ∀ (text : List Byte) (s : State), text ≠ [] →
    ∃ t, exec (.setmsg text) s = .next t ∧
      t = { s with figs := textMode hw.rom text false, sym := t.sym, wr := t.wr, rd := 0, last := 0 } ∧
      t.wr.toNat = min 2048 (11 + 8 * (textCodes hw.rom text false).length) ∧
      (∀ a < t.wr.toNat, t.sym.read a = (messageSyms hw text)[a]?) ∧
      ∀ a, t.wr.toNat ≤ a → t.sym.read a = s.sym.read a

/-- spec/41_queue_render.md sections 3 and 4 (marked derived there): for every configuration, every text and every state
before, the machine that pushes symbol by symbol and drops on full leaves exactly the first `CAPACITY` symbols of the
untruncated message. -/
def Obligations.RenderIsTheTruncatedMessage : Prop :=
  ∀ (p : Config.Params) (text : List Byte) (s : State),
    (render p text s).stream = (messageSyms p text).take p.capacity

/-- spec/41_queue_render.md section 4 and spec/90_conflicts.md C3 (decision D9; `LAST` is D10): the empty message and its
other name `STOP` leave the stream empty, the cells and all other registers as they were. -/
def Obligations.EmptyMessageIsIdle : Prop :=
  ∀ s : State,
    exec (.setmsg []) s = .next { s with figs := false, wr := 0, rd := 0, last := 0 } ∧
      exec .stop s = .next { s with figs := false, wr := 0, rd := 0, last := 0 }

/-- spec/41_queue_render.md section 4 (corner cases of the render): the stream, read position, shift state and cells before a
`SETMSG` have no influence on the stream, the positions and the shift state after it. That `LAST` too is the same after it,
namely 0, is decision D10 (log 10). -/
def Obligations.RenderForgetsThePast : Prop :=
  ∀ (text : List Byte) (s s' : State),
    ∃ t t', exec (.setmsg text) s = .next t ∧ exec (.setmsg text) s' = .next t' ∧
      t.stream = t'.stream ∧ t.wr = t'.wr ∧ t.rd = t'.rd ∧ t.last = t'.last ∧ t.figs = t'.figs

/-- spec/20_memory.md section 7 (marked derived there): every non-empty render has the preamble in cells 0 to 2 and the
Letters-shift frame in cells 3 to 10. -/
def Obligations.RenderOpensWithPreambleAndLetters : Prop :=
  ∀ (text : List Byte) (s : State), text ≠ [] →
    ∃ t, exec (.setmsg text) s = .next t ∧
      (∀ a < 3, t.sym.read a = some symMark) ∧ t.sym.read 3 = some symSpace ∧
      ∀ a, 4 ≤ a → a ≤ 10 → t.sym.read a = some symMark

/-- R144: an idle poll, or one less than 22 ms after `LAST`, changes nothing and issues nothing. -/
def Obligations.PollEarlyOrIdleDoesNothing : Prop :=
  ∀ s : State, s.wr = 0 ∨ s.nowMs - s.last < 22#32 → exec .poll s = .next s

/-- R143: a poll fires when the stream is not empty and at least 22 ms have elapsed. It (a) executes the symbol at `RD`, with
the `BASE` of that moment, (b) records the very clock sample of the test, (c) advances `RD` by one, to 0 at the stream's size.
Nothing else changes. `State.Inv` rules out a read position outside the stream. -/
def Obligations.PollFiresOneSymbol : Prop :=
  ∀ s : State, s.Inv → s.wr ≠ 0 → 22#32 ≤ s.nowMs - s.last →
    ∃ u t, exec (decodeSym (s.readSym s.rd.toNat)) s = .next u ∧ u = { s with vfo := u.vfo } ∧
      exec .poll s = .next t ∧ t = { u with last := s.nowMs, rd := t.rd } ∧
      t.rd.toNat = if s.rd.toNat + 1 = s.wr.toNat then 0 else s.rd.toNat + 1

/-- spec/42_timing_fsm.md section 2 with the premise of decision D16: where the clock has not stepped back since `LAST`, the
modular test is the plain one, and a poll fires exactly from `LAST + 22` on. -/
def Obligations.PollFiresByPlainTime : Prop :=
  ∀ s : State, s.wr ≠ 0 → s.last.toNat ≤ s.nowMs.toNat →
    ∃ t, exec .poll s = .next t ∧
      if s.last.toNat + 22 ≤ s.nowMs.toNat then
        t = { s with vfo := t.vfo, last := s.nowMs, rd := nextRd s } ∧
          t.vfo = s.vfo ++ keyCmds hw s.base (s.readSym s.rd.toNat)
      else t = s

/-! ## The symbols -/

/-- R161: Silence issues the one command that disables the output; and it is unreachable: a state with the invariant has no
Silence in its stream. -/
def Obligations.SilDisablesTheOutput : Prop :=
  ∀ s : State,
    exec .sil s = .next { s with vfo := s.vfo ++ [.setOutputEnabled false] } ∧
      (s.Inv → ∀ a < s.wr.toNat, s.readSym a ≠ symSil)

/-- R162: Mark enables the output and sets the frequency to `BASE`, whatever its value. -/
def Obligations.MarkKeysTheBase : Prop :=
  ∀ s : State, exec .mark s = .next { s with vfo := s.vfo ++ [.setOutputEnabled true, .setFrequency s.base] }

/-- spec/43_vfo_keying.md section 2: Space enables the output and sets the frequency 170 Hz below `BASE`. Below 170 the value
is the spec's own choice (decision D11, log 11): `BASE + 2^32 - 170`. -/
def Obligations.SpaceKeysTheShiftedBase : Prop :=
  ∀ s : State, ∃ f, exec .space s = .next { s with vfo := s.vfo ++ [.setOutputEnabled true, .setFrequency f] } ∧
    f.toNat = if 170 ≤ s.base.toNat then s.base.toNat - 170 else s.base.toNat + 2 ^ 32 - 170

/-- spec/43_vfo_keying.md section 2 (decision D13): the invalid value is a no-op of the dispatch alone. A poll that fires on it
issues nothing, but records its sample and advances. -/
def Obligations.InvalidSymbolIssuesNothing : Prop :=
  ∀ s : State,
    exec .symInvalid s = .next s ∧
      (s.wr ≠ 0 → 22#32 ≤ s.nowMs - s.last → s.readSym s.rd.toNat = 3#2 →
        exec .poll s = .next { s with last := s.nowMs, rd := nextRd s })

/-- R166: the commands of a poll are issued in full at every boundary, whatever was issued before: two for a fired Mark or
Space, one for Silence, none for the invalid value, none if the poll does not fire. -/
def Obligations.CommandsAreNeverSuppressed : Prop :=
  ∀ (s : State) (log : List VfoCmd),
    ∃ t cmds, exec .poll s = .next t ∧ t.vfo = s.vfo ++ cmds ∧
      exec .poll { s with vfo := log } = .next { t with vfo := log ++ cmds } ∧
      cmds.length =
        if s.wr = 0 ∨ s.nowMs - s.last < 22#32 then 0
        else if s.readSym s.rd.toNat = symMark ∨ s.readSym s.rd.toNat = symSpace then 2
        else if s.readSym s.rd.toNat = symSil then 1
        else 0

/-- R167: a new base frequency issues nothing itself and is the one the next firing poll uses: `f` for a Mark, `f - 170` for a
Space. The premise `170 <= f` is decision D15's. -/
def Obligations.SetfreqTakesEffectAtTheNextSymbol : Prop :=
  ∀ (s : State) (f : Word), s.Inv → 170 ≤ f.toNat → s.wr ≠ 0 → 22#32 ≤ s.nowMs - s.last →
    ∃ u t hz, exec (.setfreq f) s = .next u ∧ u.vfo = s.vfo ∧ exec .poll u = .next t ∧
      t.vfo = s.vfo ++ [.setOutputEnabled true, .setFrequency hz] ∧
      (s.readSym s.rd.toNat = symMark → hz = f) ∧ (s.readSym s.rd.toNat = symSpace → hz.toNat + 170 = f.toNat)

/-- R168: nothing flows back from the VFO adapter. A step appends commands to the recorder, and with any other record before
it does the same and appends the same. -/
def Obligations.VfoIsOnlyASink : Prop :=
  ∀ (s t : State) (log : List VfoCmd), step s = .next t →
    ∃ cmds, t.vfo = s.vfo ++ cmds ∧ step { s with vfo := log } = .next { t with vfo := log ++ cmds }

/-! ## The codes, the codec and the queue -/

/-- spec/41_queue_render.md section 3 (marked derived there) with the frames of spec/opcode_table.json: each of the 32 codes
(`CODE_LTRS`, `CODE_FIGS`, `CODE_UNUSED` and `CHAR_01` to `CHAR_1E`, listed in `frameRows`) pushes the leading symbols of its
frame that fit from `WR` on; every other cell and every other field is as it was. That executing a row of these groups is
`EMIT_CODE` of its value, with `FIGS` not written, is the model's reading (log 20), and so is that `CODE_UNUSED` is
`EMIT_CODE(0)` (log 32). -/
def Obligations.CodesPushTheirFrames : Prop :=
  ∀ row ∈ frameRows, ∀ s : State, s.wr.toNat ≤ 2048 →
    ∃ t, exec row.1 s = .next t ∧ t = { s with sym := t.sym, wr := t.wr } ∧
      t.wr.toNat = min 2048 (s.wr.toNat + 8) ∧
      ∀ a, t.sym.read a = if s.wr.toNat ≤ a ∧ a < t.wr.toNat then row.2[a - s.wr.toNat]? else s.sym.read a

/-- spec/opcode_table.json, groups CODE and ROM, and spec/30_encoding.md section 2: the table's rows are all the codes; each
code decodes to a row whose frame is the code's. -/
def Obligations.EveryCodeIsATableRow : Prop :=
  ∀ c : Code, (decodeCode c, expand codeSpace c) ∈ frameRows ∧ encode (decodeCode c) = .code c

/-- R120: a push stores at `WR` and counts, or, at capacity, does nothing. -/
def Obligations.PushStoresOrDrops : Prop :=
  ∀ (p : Config.Params) (v : Sym) (s : State), s.wr.toNat ≤ p.capacity →
    if s.wr.toNat < p.capacity then
      ∃ t, qPush p v s = t ∧ t = { s with sym := t.sym, wr := t.wr } ∧ t.wr.toNat = s.wr.toNat + 1 ∧
        ∀ a, t.sym.read a = if a = s.wr.toNat then some v else s.sym.read a
    else qPush p v s = s

/-- spec/40_codec.md section 2 (decision D6): in a table of a well-formed pair, `LOOKUP` finds a character exactly at the index
whose word it is, and the terminator never. -/
def Obligations.LookupFindsTheOnlyIndex : Prop :=
  ∀ (k : Config.CodeSpace) (r : Config.RomPair k) (t : List Byte) (ch : Byte) (i : BitVec k.codeW),
    t = r.ltrs ∨ t = r.figs → (lookup k t ch = some i ↔ ch ≠ 0#8 ∧ Config.romRead t i.toNat = ch)

/-- R101: `CLASSIFY` has the four results, each exactly when the two lookups say so; two different indices never occur. -/
def Obligations.ClassifyHasFourResults : Prop :=
  ∀ (k : Config.CodeSpace) (r : Config.RomPair k) (ch : Byte),
    (classify r ch = .unsupported ↔ lookup k r.ltrs ch = none ∧ lookup k r.figs ch = none) ∧
    (∀ i, classify r ch = .shared i ↔ lookup k r.ltrs ch = some i ∧ lookup k r.figs ch = some i) ∧
    (∀ i, classify r ch = .letter i ↔ lookup k r.ltrs ch = some i ∧ lookup k r.figs ch = none) ∧
    (∀ j, classify r ch = .figure j ↔ lookup k r.ltrs ch = none ∧ lookup k r.figs ch = some j) ∧
    ∀ i j, lookup k r.ltrs ch = some i → lookup k r.figs ch = some j → i = j

/-- R103: the multiplexer returns nothing and changes nothing in the wanted mode, else the one sentinel that selects it; the
flag is written whether or not the queue has room. -/
def Obligations.ShiftMuxSelectsTheMode : Prop :=
  (∀ (k : Config.CodeSpace) (figs : Bool), shiftMux k figs figs = ([], figs)) ∧
    (∀ k : Config.CodeSpace,
      shiftMux k false true = ([k.codeLtrs], false) ∧ shiftMux k true false = ([k.codeFigs], true)) ∧
    shiftMux codeSpace false true = ([0x1F#5], false) ∧ shiftMux codeSpace true false = ([0x1B#5], true) ∧
    ∀ (p : Config.Params) (ch : Byte) (s : State), (emitChar p ch s).figs = (encodeChar p.rom ch s.figs).2

/-- R104, R106, R107, R108: the codes of one character and the shift state after it, for every well-formed ROM pair. The
sentinels are 0x1F and 0x1B. -/
def Obligations.EncodeCharByClass : Prop :=
  (codeSpace.codeLtrs = 0x1F#5 ∧ codeSpace.codeFigs = 0x1B#5) ∧
    ∀ (k : Config.CodeSpace) (r : Config.RomPair k) (ch : Byte) (figs : Bool),
      match lookup k r.ltrs ch, lookup k r.figs ch with
      | none, none => encodeChar r ch figs = ([], figs)
      | some i, some j => i = j ∧ encodeChar r ch figs = ([i], figs)
      | some i, none => encodeChar r ch figs = ((if figs then [k.codeLtrs] else []) ++ [i], false)
      | none, some j => encodeChar r ch figs = ((if figs then [] else [k.codeFigs]) ++ [j], true)

/-- spec/40_codec.md section 5, the properties of the shift state, clause (d) (marked derived there): the codec never returns
code 0, at most two codes, and a sentinel only as the first of two. -/
def Obligations.CodecNeverSendsUnusedOrLoneSentinels : Prop :=
  ∀ (k : Config.CodeSpace) (r : Config.RomPair k) (ch : Byte) (figs : Bool),
    let cs := (encodeChar r ch figs).1
    0#k.codeW ∉ cs ∧ cs.length ≤ 2 ∧
      ∀ n, cs[n]? = some k.codeLtrs ∨ cs[n]? = some k.codeFigs → n = 0 ∧ cs.length = 2

/-! ## Whole-machine rules -/

/-- spec/10_state.md section 1, the column "written by": which operations write which register. -/
def Obligations.RegistersAreWrittenOnlyByTheirOperations : Prop :=
  ∀ (i : Instr) (s t : State), i.isCommand = true → exec i s = .next t →
    (t.base ≠ s.base → ∃ imm, i = .setfreq imm) ∧
    (t.delay ≠ s.delay → ∃ imm, i = .setdelay imm) ∧
    (t.figs ≠ s.figs ∨ t.sym ≠ s.sym ∨ t.wr ≠ s.wr → i = .stop ∨ ∃ text, i = .setmsg text) ∧
    (t.rd ≠ s.rd ∨ t.last ≠ s.last → i = .poll ∨ i = .stop ∨ ∃ text, i = .setmsg text) ∧
    (t.vfo ≠ s.vfo → i = .poll) ∧
    t.dec = s.dec ∧ t.nowMs = s.nowMs ∧ t.port = s.port ∧ t.resets = s.resets

/-- spec/42_timing_fsm.md section 1 (marked derived there; the empty text is decision D9): a non-empty `SETMSG` enters Running
and an empty one Idle, from either state; no other operation changes between Idle and Running. -/
def Obligations.IdleChangesOnlyBySetmsg : Prop :=
  ∀ (i : Instr) (s t : State), i.isCommand = true → exec i s = .next t →
    t.idle = match i with
      | .setmsg text => decide (text = [])
      | .stop => true
      | _ => s.idle

/-- spec/42_timing_fsm.md section 2, the first poll after a `SETMSG` (decision D10): it fires if and only if the clock reads 22
or more, and applies the first preamble Mark. -/
def Obligations.FirstPollAfterSetmsg : Prop :=
  ∀ (text : List Byte) (s : State) (now : Word), text ≠ [] →
    ∃ u t, exec (.setmsg text) s = .next u ∧ exec .poll (u.setNowMs now) = .next t ∧
      t = if 22 ≤ now.toNat then
          { u with
            nowMs := now, last := now, rd := 1,
            vfo := s.vfo ++ [.setOutputEnabled true, .setFrequency s.base] }
        else { u with nowMs := now }

/-- spec/42_timing_fsm.md section 2, cyclic replay: polls that each come at least 22 ms after the one before apply the symbols
of the stream in order, one each, from the read position on and round the stream's size for ever, with no gap. -/
def Obligations.CyclicReplay : Prop :=
  ∀ (s : State) (ts : List Word),
    s.Inv → s.wr ≠ 0 → s.dec = [] → s.port = ts.flatMap pollEvents → spaced s.last ts →
    ∃ t, s.run ts.length = .next t ∧
      t.vfo = s.vfo ++ (List.range ts.length).flatMap
        (fun k => keyCmds hw s.base (s.readSym ((s.rd.toNat + k) % s.wr.toNat))) ∧
      t.rd.toNat = (s.rd.toNat + ts.length) % s.wr.toNat ∧ t.last = ts.getLastD s.last ∧
      t.sym = s.sym ∧ t.wr = s.wr ∧ t.base = s.base

/-- spec/42_timing_fsm.md section 2, under the premise on the clock (decision D16): a step that issues any VFO command comes at
least 22 ms after `LAST`, and, if no reset cuts it short, records its own clock sample there. `LAST` is the last firing only
until a `SETMSG` or a reset sets it to 0 (decisions D10, D14): see FiringsOfOneMessageAreAtLeast22MsApart. -/
def Obligations.CommandsComeAtLeast22MsAfterLast : Prop :=
  ∀ s t : State, s.ClockMonotone → step s = .next t → t.vfo ≠ s.vfo →
    s.last.toNat + 22 ≤ t.nowMs.toNat ∧ (t.resets = s.resets → t.last = t.nowMs)

/-- spec/70_reset_and_hazards.md section 4, the last rule of the section (marked derived there): no step of the core ever
disables the RF output. -/
def Obligations.OutputIsNeverDisabled : Prop :=
  ∀ s t : State, s.Inv → step s = .next t →
    ∃ cmds, t.vfo = s.vfo ++ cmds ∧ VfoCmd.setOutputEnabled false ∉ cmds

/-- spec/44_host_commands.md section 5: the stored delay influences nothing. Runs that differ in it only issue the same VFO
commands and go through states that differ in it only. -/
def Obligations.DelayInfluencesNothing : Prop :=
  ∀ (n : Nat) (s t : State) (d : Word), s.run n = .next t →
    ∃ d', State.run { s with delay := d } n = .next { t with delay := d' }

/-- spec/10_state.md section 9: the shift state before a step is unobservable, because every `SETMSG` clears it before reading
it. -/
def Obligations.ShiftStateIsUnobservable : Prop :=
  ∀ (n : Nat) (s t : State) (f : Bool), s.run n = .next t →
    ∃ f', State.run { s with figs := f } n = .next { t with figs := f' }

/-! ## Encodings -/

/-- spec/30_encoding.md (decisions D3, D19): every well-formed instruction, command, symbol or code, is read back from its
encoding, `STOP` as `SETMSG ""`. -/
def Obligations.DecodeEncode : Prop :=
  ∀ i : Instr, i.wellFormed = true → decodeEncoding (encode i) = some i.canonical

/-- spec/30_encoding.md section 5 (decisions D3, D20): a command at the front of any byte stream is read whole, and what
follows it is left for the next. -/
def Obligations.CommandsAreReadOneByOne : Prop :=
  ∀ (i : Instr) (rest : List Byte), i.isCommand = true → i.wellFormed = true →
    decode (encodeBytes i ++ rest) = .instr i.canonical rest

/-- spec/30_encoding.md sections 3 and 5 (decision D3): what the decoder reads is a well-formed command, and its encoding is
exactly the bytes it took. -/
def Obligations.DecodedCommandsReencode : Prop :=
  ∀ (bs rest : List Byte) (i : Instr), decode bs = .instr i rest →
    i.isCommand = true ∧ i.wellFormed = true ∧ bs = encodeBytes i ++ rest

/-- spec/30_encoding.md section 5 (decision D20): no proper beginning of a command is a command. -/
def Obligations.BeginningsAreIncomplete : Prop :=
  ∀ (i : Instr) (k : Nat), i.isCommand = true → i.wellFormed = true → k < (encodeBytes i).length →
    ∃ r, decode ((encodeBytes i).take k) = .refused r

/-- spec/95_test_vectors.md V7, V8 (encodings of decision D3) and spec/opcode_table.json: words written out from the formats
decode to the instructions they stand for. -/
def Obligations.DecodedWords : Prop :=
  decode [0x01, 0x00, 0xD8, 0xD6, 0x00] = .instr (.setfreq 14080000) [] ∧
    decode [0x02, 0x04, 0x01, 0x00, 0x04] = .instr (.setmsg [0x04, 0x01]) [0x04] ∧
    decode [0x03, 0x04, 0x03, 0x02, 0x01] = .instr (.setdelay 0x01020304) [] ∧
    decode [0x04] = .instr .poll [] ∧ decode [0xFF, 0x04] = .instr (.reserved 0xFF) [0x04] ∧
    decode [0x02, 0x41] = .refused (.incomplete 0x02) ∧
    decodeSym 0b10 = .space ∧ decodeCode 0b11011 = .codeFigs ∧ decodeCode 0b11000 = .char18

/-! ## Timing over a run -/

/-- spec/42_timing_fsm.md section 2, no catch-up, under the premise on the clock (decision D16): if a step fires, and `n` steps
later another issues VFO commands, with no `SETMSG` and no reset between, then the clock of the later is at least 22 ms past the
clock of the earlier. A `SETMSG` between two firings voids the bound (decision D10): spec/95_test_vectors.md P2 fires at 172 and
180 ms. -/
def Obligations.FiringsOfOneMessageAreAtLeast22MsApart : Prop :=
  ∀ (n : Nat) (s t u v : State),
    s.ClockMonotone → step s = .next t → t.vfo ≠ s.vfo → t.resets = s.resets →
    t.undisturbed n → t.run n = .next u → step u = .next v → v.vfo ≠ u.vfo →
      t.nowMs.toNat + 22 ≤ v.nowMs.toNat

/-! ## The configuration -/

/-- R5: the nine parameters, each a field of the configuration with the reference value of the rule's table. -/
def Obligations.ReferenceParameters : Prop :=
  hw.romLen = 32 ∧ hw.codeW = 5 ∧ hw.codeLtrs.toNat = 0x1F ∧ hw.codeFigs.toNat = 0x1B ∧ hw.capacity = 2048 ∧
    hw.preambleMarks = 3 ∧ hw.frameLen = 8 ∧ hw.symbolMs.toNat = 22 ∧ hw.shiftHz.toNat = 170

/-- R122: the frame of one code, eight symbols. -/
def Obligations.ExpandGivesTheFrame : Prop :=
  bitSym true = symMark ∧ bitSym false = symSpace ∧
    ∀ c : Code, expand codeSpace c =
      [symSpace, bitSym (c.getLsbD 4), bitSym (c.getLsbD 3), bitSym (c.getLsbD 2), bitSym (c.getLsbD 1),
        bitSym (c.getLsbD 0), symMark, symMark]

/-- spec/41_queue_render.md section 3, for every code space (log 28): a frame is `FRAME_LEN` symbols, a start Space, the
`CODE_W` data symbols with the most significant bit first, and stop Marks. The reading of a frame with other than the reference
values is the model's. -/
def Obligations.FramesOfAnyCodeSpace : Prop :=
  ∀ (k : Config.CodeSpace) (c : BitVec k.codeW),
    (expand k c).length = k.frameLen ∧ (expand k c)[0]? = some symSpace ∧
      (∀ i < k.codeW, (expand k c)[i + 1]? = some (bitSym (c.getLsbD (k.codeW - 1 - i)))) ∧
      ∀ i, k.codeW < i → i < k.frameLen → (expand k c)[i]? = some symMark

/-- spec/41_queue_render.md section 4, the stream size after a render (marked derived there), for every configuration: with `n`
the number of codes of the text, `min(CAPACITY, PREAMBLE_MARKS + FRAME_LEN x (1 + n))`. -/
def Obligations.StreamSizeOfAnyConfiguration : Prop :=
  ∀ (p : Config.Params) (text : List Byte) (s : State), text ≠ [] →
    (render p text s).wr.toNat =
      min p.capacity (p.preambleMarks + p.frameLen * (1 + (textCodes p.rom text false).length))
end

