-- ==== Sys2Proof/Laws/State.lean ====
section
/-! SUPPORT. What each update of the state does to each field: one lemma per field per update, so that no proof unfolds a
record update. -/

namespace Sys2Proof.Machine

@[simp] theorem State.setFigs_figs (s : State) (v : Bool) : (s.setFigs v).figs = v := rfl
@[simp] theorem State.setFigs_sym (s : State) (v : Bool) : (s.setFigs v).sym = s.sym := rfl
@[simp] theorem State.setFigs_wr (s : State) (v : Bool) : (s.setFigs v).wr = s.wr := rfl
@[simp] theorem State.setFigs_rd (s : State) (v : Bool) : (s.setFigs v).rd = s.rd := rfl
@[simp] theorem State.setFigs_last (s : State) (v : Bool) : (s.setFigs v).last = s.last := rfl
@[simp] theorem State.setFigs_base (s : State) (v : Bool) : (s.setFigs v).base = s.base := rfl
@[simp] theorem State.setFigs_delay (s : State) (v : Bool) : (s.setFigs v).delay = s.delay := rfl
@[simp] theorem State.setFigs_dec (s : State) (v : Bool) : (s.setFigs v).dec = s.dec := rfl
@[simp] theorem State.setFigs_nowMs (s : State) (v : Bool) : (s.setFigs v).nowMs = s.nowMs := rfl
@[simp] theorem State.setFigs_port (s : State) (v : Bool) : (s.setFigs v).port = s.port := rfl
@[simp] theorem State.setFigs_vfo (s : State) (v : Bool) : (s.setFigs v).vfo = s.vfo := rfl
@[simp] theorem State.setFigs_resets (s : State) (v : Bool) : (s.setFigs v).resets = s.resets := rfl

@[simp] theorem State.setSym_figs (s : State) (m : Memory) : (s.setSym m).figs = s.figs := rfl
@[simp] theorem State.setSym_sym (s : State) (m : Memory) : (s.setSym m).sym = m := rfl
@[simp] theorem State.setSym_wr (s : State) (m : Memory) : (s.setSym m).wr = s.wr := rfl
@[simp] theorem State.setSym_rd (s : State) (m : Memory) : (s.setSym m).rd = s.rd := rfl
@[simp] theorem State.setSym_last (s : State) (m : Memory) : (s.setSym m).last = s.last := rfl
@[simp] theorem State.setSym_base (s : State) (m : Memory) : (s.setSym m).base = s.base := rfl
@[simp] theorem State.setSym_delay (s : State) (m : Memory) : (s.setSym m).delay = s.delay := rfl
@[simp] theorem State.setSym_dec (s : State) (m : Memory) : (s.setSym m).dec = s.dec := rfl
@[simp] theorem State.setSym_nowMs (s : State) (m : Memory) : (s.setSym m).nowMs = s.nowMs := rfl
@[simp] theorem State.setSym_port (s : State) (m : Memory) : (s.setSym m).port = s.port := rfl
@[simp] theorem State.setSym_vfo (s : State) (m : Memory) : (s.setSym m).vfo = s.vfo := rfl
@[simp] theorem State.setSym_resets (s : State) (m : Memory) : (s.setSym m).resets = s.resets := rfl

@[simp] theorem State.setWr_figs (s : State) (v : BitVec 12) : (s.setWr v).figs = s.figs := rfl
@[simp] theorem State.setWr_sym (s : State) (v : BitVec 12) : (s.setWr v).sym = s.sym := rfl
@[simp] theorem State.setWr_wr (s : State) (v : BitVec 12) : (s.setWr v).wr = v := rfl
@[simp] theorem State.setWr_rd (s : State) (v : BitVec 12) : (s.setWr v).rd = s.rd := rfl
@[simp] theorem State.setWr_last (s : State) (v : BitVec 12) : (s.setWr v).last = s.last := rfl
@[simp] theorem State.setWr_base (s : State) (v : BitVec 12) : (s.setWr v).base = s.base := rfl
@[simp] theorem State.setWr_delay (s : State) (v : BitVec 12) : (s.setWr v).delay = s.delay := rfl
@[simp] theorem State.setWr_dec (s : State) (v : BitVec 12) : (s.setWr v).dec = s.dec := rfl
@[simp] theorem State.setWr_nowMs (s : State) (v : BitVec 12) : (s.setWr v).nowMs = s.nowMs := rfl
@[simp] theorem State.setWr_port (s : State) (v : BitVec 12) : (s.setWr v).port = s.port := rfl
@[simp] theorem State.setWr_vfo (s : State) (v : BitVec 12) : (s.setWr v).vfo = s.vfo := rfl
@[simp] theorem State.setWr_resets (s : State) (v : BitVec 12) : (s.setWr v).resets = s.resets := rfl

@[simp] theorem State.setRd_figs (s : State) (v : BitVec 11) : (s.setRd v).figs = s.figs := rfl
@[simp] theorem State.setRd_sym (s : State) (v : BitVec 11) : (s.setRd v).sym = s.sym := rfl
@[simp] theorem State.setRd_wr (s : State) (v : BitVec 11) : (s.setRd v).wr = s.wr := rfl
@[simp] theorem State.setRd_rd (s : State) (v : BitVec 11) : (s.setRd v).rd = v := rfl
@[simp] theorem State.setRd_last (s : State) (v : BitVec 11) : (s.setRd v).last = s.last := rfl
@[simp] theorem State.setRd_base (s : State) (v : BitVec 11) : (s.setRd v).base = s.base := rfl
@[simp] theorem State.setRd_delay (s : State) (v : BitVec 11) : (s.setRd v).delay = s.delay := rfl
@[simp] theorem State.setRd_dec (s : State) (v : BitVec 11) : (s.setRd v).dec = s.dec := rfl
@[simp] theorem State.setRd_nowMs (s : State) (v : BitVec 11) : (s.setRd v).nowMs = s.nowMs := rfl
@[simp] theorem State.setRd_port (s : State) (v : BitVec 11) : (s.setRd v).port = s.port := rfl
@[simp] theorem State.setRd_vfo (s : State) (v : BitVec 11) : (s.setRd v).vfo = s.vfo := rfl
@[simp] theorem State.setRd_resets (s : State) (v : BitVec 11) : (s.setRd v).resets = s.resets := rfl

@[simp] theorem State.setLast_figs (s : State) (v : Word) : (s.setLast v).figs = s.figs := rfl
@[simp] theorem State.setLast_sym (s : State) (v : Word) : (s.setLast v).sym = s.sym := rfl
@[simp] theorem State.setLast_wr (s : State) (v : Word) : (s.setLast v).wr = s.wr := rfl
@[simp] theorem State.setLast_rd (s : State) (v : Word) : (s.setLast v).rd = s.rd := rfl
@[simp] theorem State.setLast_last (s : State) (v : Word) : (s.setLast v).last = v := rfl
@[simp] theorem State.setLast_base (s : State) (v : Word) : (s.setLast v).base = s.base := rfl
@[simp] theorem State.setLast_delay (s : State) (v : Word) : (s.setLast v).delay = s.delay := rfl
@[simp] theorem State.setLast_dec (s : State) (v : Word) : (s.setLast v).dec = s.dec := rfl
@[simp] theorem State.setLast_nowMs (s : State) (v : Word) : (s.setLast v).nowMs = s.nowMs := rfl
@[simp] theorem State.setLast_port (s : State) (v : Word) : (s.setLast v).port = s.port := rfl
@[simp] theorem State.setLast_vfo (s : State) (v : Word) : (s.setLast v).vfo = s.vfo := rfl
@[simp] theorem State.setLast_resets (s : State) (v : Word) : (s.setLast v).resets = s.resets := rfl

@[simp] theorem State.setBase_figs (s : State) (v : Word) : (s.setBase v).figs = s.figs := rfl
@[simp] theorem State.setBase_sym (s : State) (v : Word) : (s.setBase v).sym = s.sym := rfl
@[simp] theorem State.setBase_wr (s : State) (v : Word) : (s.setBase v).wr = s.wr := rfl
@[simp] theorem State.setBase_rd (s : State) (v : Word) : (s.setBase v).rd = s.rd := rfl
@[simp] theorem State.setBase_last (s : State) (v : Word) : (s.setBase v).last = s.last := rfl
@[simp] theorem State.setBase_base (s : State) (v : Word) : (s.setBase v).base = v := rfl
@[simp] theorem State.setBase_delay (s : State) (v : Word) : (s.setBase v).delay = s.delay := rfl
@[simp] theorem State.setBase_dec (s : State) (v : Word) : (s.setBase v).dec = s.dec := rfl
@[simp] theorem State.setBase_nowMs (s : State) (v : Word) : (s.setBase v).nowMs = s.nowMs := rfl
@[simp] theorem State.setBase_port (s : State) (v : Word) : (s.setBase v).port = s.port := rfl
@[simp] theorem State.setBase_vfo (s : State) (v : Word) : (s.setBase v).vfo = s.vfo := rfl
@[simp] theorem State.setBase_resets (s : State) (v : Word) : (s.setBase v).resets = s.resets := rfl

@[simp] theorem State.setDelay_figs (s : State) (v : Word) : (s.setDelay v).figs = s.figs := rfl
@[simp] theorem State.setDelay_sym (s : State) (v : Word) : (s.setDelay v).sym = s.sym := rfl
@[simp] theorem State.setDelay_wr (s : State) (v : Word) : (s.setDelay v).wr = s.wr := rfl
@[simp] theorem State.setDelay_rd (s : State) (v : Word) : (s.setDelay v).rd = s.rd := rfl
@[simp] theorem State.setDelay_last (s : State) (v : Word) : (s.setDelay v).last = s.last := rfl
@[simp] theorem State.setDelay_base (s : State) (v : Word) : (s.setDelay v).base = s.base := rfl
@[simp] theorem State.setDelay_delay (s : State) (v : Word) : (s.setDelay v).delay = v := rfl
@[simp] theorem State.setDelay_dec (s : State) (v : Word) : (s.setDelay v).dec = s.dec := rfl
@[simp] theorem State.setDelay_nowMs (s : State) (v : Word) : (s.setDelay v).nowMs = s.nowMs := rfl
@[simp] theorem State.setDelay_port (s : State) (v : Word) : (s.setDelay v).port = s.port := rfl
@[simp] theorem State.setDelay_vfo (s : State) (v : Word) : (s.setDelay v).vfo = s.vfo := rfl
@[simp] theorem State.setDelay_resets (s : State) (v : Word) : (s.setDelay v).resets = s.resets := rfl

@[simp] theorem State.setDec_figs (s : State) (bs : List Byte) : (s.setDec bs).figs = s.figs := rfl
@[simp] theorem State.setDec_sym (s : State) (bs : List Byte) : (s.setDec bs).sym = s.sym := rfl
@[simp] theorem State.setDec_wr (s : State) (bs : List Byte) : (s.setDec bs).wr = s.wr := rfl
@[simp] theorem State.setDec_rd (s : State) (bs : List Byte) : (s.setDec bs).rd = s.rd := rfl
@[simp] theorem State.setDec_last (s : State) (bs : List Byte) : (s.setDec bs).last = s.last := rfl
@[simp] theorem State.setDec_base (s : State) (bs : List Byte) : (s.setDec bs).base = s.base := rfl
@[simp] theorem State.setDec_delay (s : State) (bs : List Byte) : (s.setDec bs).delay = s.delay := rfl
@[simp] theorem State.setDec_dec (s : State) (bs : List Byte) : (s.setDec bs).dec = bs := rfl
@[simp] theorem State.setDec_nowMs (s : State) (bs : List Byte) : (s.setDec bs).nowMs = s.nowMs := rfl
@[simp] theorem State.setDec_port (s : State) (bs : List Byte) : (s.setDec bs).port = s.port := rfl
@[simp] theorem State.setDec_vfo (s : State) (bs : List Byte) : (s.setDec bs).vfo = s.vfo := rfl
@[simp] theorem State.setDec_resets (s : State) (bs : List Byte) : (s.setDec bs).resets = s.resets := rfl

@[simp] theorem State.setNowMs_figs (s : State) (t : Word) : (s.setNowMs t).figs = s.figs := rfl
@[simp] theorem State.setNowMs_sym (s : State) (t : Word) : (s.setNowMs t).sym = s.sym := rfl
@[simp] theorem State.setNowMs_wr (s : State) (t : Word) : (s.setNowMs t).wr = s.wr := rfl
@[simp] theorem State.setNowMs_rd (s : State) (t : Word) : (s.setNowMs t).rd = s.rd := rfl
@[simp] theorem State.setNowMs_last (s : State) (t : Word) : (s.setNowMs t).last = s.last := rfl
@[simp] theorem State.setNowMs_base (s : State) (t : Word) : (s.setNowMs t).base = s.base := rfl
@[simp] theorem State.setNowMs_delay (s : State) (t : Word) : (s.setNowMs t).delay = s.delay := rfl
@[simp] theorem State.setNowMs_dec (s : State) (t : Word) : (s.setNowMs t).dec = s.dec := rfl
@[simp] theorem State.setNowMs_nowMs (s : State) (t : Word) : (s.setNowMs t).nowMs = t := rfl
@[simp] theorem State.setNowMs_port (s : State) (t : Word) : (s.setNowMs t).port = s.port := rfl
@[simp] theorem State.setNowMs_vfo (s : State) (t : Word) : (s.setNowMs t).vfo = s.vfo := rfl
@[simp] theorem State.setNowMs_resets (s : State) (t : Word) : (s.setNowMs t).resets = s.resets := rfl

@[simp] theorem State.setPort_figs (s : State) (es : List PinEvent) : (s.setPort es).figs = s.figs := rfl
@[simp] theorem State.setPort_sym (s : State) (es : List PinEvent) : (s.setPort es).sym = s.sym := rfl
@[simp] theorem State.setPort_wr (s : State) (es : List PinEvent) : (s.setPort es).wr = s.wr := rfl
@[simp] theorem State.setPort_rd (s : State) (es : List PinEvent) : (s.setPort es).rd = s.rd := rfl
@[simp] theorem State.setPort_last (s : State) (es : List PinEvent) : (s.setPort es).last = s.last := rfl
@[simp] theorem State.setPort_base (s : State) (es : List PinEvent) : (s.setPort es).base = s.base := rfl
@[simp] theorem State.setPort_delay (s : State) (es : List PinEvent) : (s.setPort es).delay = s.delay := rfl
@[simp] theorem State.setPort_dec (s : State) (es : List PinEvent) : (s.setPort es).dec = s.dec := rfl
@[simp] theorem State.setPort_nowMs (s : State) (es : List PinEvent) : (s.setPort es).nowMs = s.nowMs := rfl
@[simp] theorem State.setPort_port (s : State) (es : List PinEvent) : (s.setPort es).port = es := rfl
@[simp] theorem State.setPort_vfo (s : State) (es : List PinEvent) : (s.setPort es).vfo = s.vfo := rfl
@[simp] theorem State.setPort_resets (s : State) (es : List PinEvent) : (s.setPort es).resets = s.resets := rfl

@[simp] theorem State.issue_figs (s : State) (cmds : List VfoCmd) : (s.issue cmds).figs = s.figs := rfl
@[simp] theorem State.issue_sym (s : State) (cmds : List VfoCmd) : (s.issue cmds).sym = s.sym := rfl
@[simp] theorem State.issue_wr (s : State) (cmds : List VfoCmd) : (s.issue cmds).wr = s.wr := rfl
@[simp] theorem State.issue_rd (s : State) (cmds : List VfoCmd) : (s.issue cmds).rd = s.rd := rfl
@[simp] theorem State.issue_last (s : State) (cmds : List VfoCmd) : (s.issue cmds).last = s.last := rfl
@[simp] theorem State.issue_base (s : State) (cmds : List VfoCmd) : (s.issue cmds).base = s.base := rfl
@[simp] theorem State.issue_delay (s : State) (cmds : List VfoCmd) : (s.issue cmds).delay = s.delay := rfl
@[simp] theorem State.issue_dec (s : State) (cmds : List VfoCmd) : (s.issue cmds).dec = s.dec := rfl
@[simp] theorem State.issue_nowMs (s : State) (cmds : List VfoCmd) : (s.issue cmds).nowMs = s.nowMs := rfl
@[simp] theorem State.issue_port (s : State) (cmds : List VfoCmd) : (s.issue cmds).port = s.port := rfl
@[simp] theorem State.issue_vfo (s : State) (cmds : List VfoCmd) : (s.issue cmds).vfo = s.vfo ++ cmds := rfl
@[simp] theorem State.issue_resets (s : State) (cmds : List VfoCmd) : (s.issue cmds).resets = s.resets := rfl

@[simp] theorem takeReset_figs (s : State) : (takeReset s).figs = false := rfl
@[simp] theorem takeReset_sym (s : State) : (takeReset s).sym = [] := rfl
@[simp] theorem takeReset_wr (s : State) : (takeReset s).wr = 0 := rfl
@[simp] theorem takeReset_rd (s : State) : (takeReset s).rd = 0 := rfl
@[simp] theorem takeReset_last (s : State) : (takeReset s).last = 0 := rfl
@[simp] theorem takeReset_base (s : State) : (takeReset s).base = 0 := rfl
@[simp] theorem takeReset_delay (s : State) : (takeReset s).delay = 0 := rfl
@[simp] theorem takeReset_dec (s : State) : (takeReset s).dec = [] := rfl
@[simp] theorem takeReset_nowMs (s : State) : (takeReset s).nowMs = s.nowMs := rfl
@[simp] theorem takeReset_port (s : State) : (takeReset s).port = s.port := rfl
@[simp] theorem takeReset_vfo (s : State) : (takeReset s).vfo = s.vfo := rfl
@[simp] theorem takeReset_resets (s : State) : (takeReset s).resets = s.resets + 1 := rfl

@[simp] theorem State.queryClock_eq (s : State) : s.queryClock = s.nowMs := rfl

@[simp] theorem State.delayQ_eq (s : State) : s.delayQ = s.delay := rfl

theorem State.idle_iff (s : State) : s.idle = true ↔ s.wr = 0 := by simp [State.idle]

/-- A cell that memory lists reads as listed. -/
theorem State.readSym_of_read (s : State) (a : Nat) (v : Sym) (h : s.sym.read a = some v) : s.readSym a = v := by
  simp [State.readSym, h]

end Sys2Proof.Machine
end

