-- ==== Sys2Proof/Laws/Exec.lean ====
section
/-! SUPPORT. What `exec` can do: one equation per constructor, and one inversion lemma over all of them. A proof about `exec`
rewrites with these and then uses `Host.Outcome.next.injEq`; it never asks Lean to evaluate a meaning on a symbolic state. -/

namespace Sys2Proof.Machine

theorem exec_setfreq (imm : Word) (s : State) : exec (.setfreq imm) s = .next (s.setBase imm) := rfl

theorem exec_setmsg (text : List Byte) (s : State) : exec (.setmsg text) s = .next (render hw text s) := rfl

theorem exec_setdelay (imm : Word) (s : State) : exec (.setdelay imm) s = .next (s.setDelay imm) := rfl

theorem exec_poll (s : State) : exec .poll s = .next (poll hw s) := rfl

theorem exec_reserved (opcode : Byte) (s : State) : exec (.reserved opcode) s = .next (s) := rfl

theorem exec_stop (s : State) : exec .stop s = .next (render hw [] s) := rfl

theorem exec_sil (s : State) : exec .sil s = .next (key hw symSil s) := rfl

theorem exec_mark (s : State) : exec .mark s = .next (key hw symMark s) := rfl

theorem exec_space (s : State) : exec .space s = .next (key hw symSpace s) := rfl

theorem exec_symInvalid (s : State) : exec .symInvalid s = .next (key hw 3#2 s) := rfl

theorem exec_codeLtrs (s : State) : exec .codeLtrs s = .next (emitCode hw 0x1F#5 s) := rfl

theorem exec_codeFigs (s : State) : exec .codeFigs s = .next (emitCode hw 0x1B#5 s) := rfl

theorem exec_codeUnused (s : State) : exec .codeUnused s = .next (emitCode hw 0x00#5 s) := rfl

theorem exec_char01 (s : State) : exec .char01 s = .next (emitCode hw 0x01#5 s) := rfl

theorem exec_char02 (s : State) : exec .char02 s = .next (emitCode hw 0x02#5 s) := rfl

theorem exec_char03 (s : State) : exec .char03 s = .next (emitCode hw 0x03#5 s) := rfl

theorem exec_char04 (s : State) : exec .char04 s = .next (emitCode hw 0x04#5 s) := rfl

theorem exec_char05 (s : State) : exec .char05 s = .next (emitCode hw 0x05#5 s) := rfl

theorem exec_char06 (s : State) : exec .char06 s = .next (emitCode hw 0x06#5 s) := rfl

theorem exec_char07 (s : State) : exec .char07 s = .next (emitCode hw 0x07#5 s) := rfl

theorem exec_char08 (s : State) : exec .char08 s = .next (emitCode hw 0x08#5 s) := rfl

theorem exec_char09 (s : State) : exec .char09 s = .next (emitCode hw 0x09#5 s) := rfl

theorem exec_char0A (s : State) : exec .char0A s = .next (emitCode hw 0x0A#5 s) := rfl

theorem exec_char0B (s : State) : exec .char0B s = .next (emitCode hw 0x0B#5 s) := rfl

theorem exec_char0C (s : State) : exec .char0C s = .next (emitCode hw 0x0C#5 s) := rfl

theorem exec_char0D (s : State) : exec .char0D s = .next (emitCode hw 0x0D#5 s) := rfl

theorem exec_char0E (s : State) : exec .char0E s = .next (emitCode hw 0x0E#5 s) := rfl

theorem exec_char0F (s : State) : exec .char0F s = .next (emitCode hw 0x0F#5 s) := rfl

theorem exec_char10 (s : State) : exec .char10 s = .next (emitCode hw 0x10#5 s) := rfl

theorem exec_char11 (s : State) : exec .char11 s = .next (emitCode hw 0x11#5 s) := rfl

theorem exec_char12 (s : State) : exec .char12 s = .next (emitCode hw 0x12#5 s) := rfl

theorem exec_char13 (s : State) : exec .char13 s = .next (emitCode hw 0x13#5 s) := rfl

theorem exec_char14 (s : State) : exec .char14 s = .next (emitCode hw 0x14#5 s) := rfl

theorem exec_char15 (s : State) : exec .char15 s = .next (emitCode hw 0x15#5 s) := rfl

theorem exec_char16 (s : State) : exec .char16 s = .next (emitCode hw 0x16#5 s) := rfl

theorem exec_char17 (s : State) : exec .char17 s = .next (emitCode hw 0x17#5 s) := rfl

theorem exec_char18 (s : State) : exec .char18 s = .next (emitCode hw 0x18#5 s) := rfl

theorem exec_char19 (s : State) : exec .char19 s = .next (emitCode hw 0x19#5 s) := rfl

theorem exec_char1A (s : State) : exec .char1A s = .next (emitCode hw 0x1A#5 s) := rfl

theorem exec_char1C (s : State) : exec .char1C s = .next (emitCode hw 0x1C#5 s) := rfl

theorem exec_char1D (s : State) : exec .char1D s = .next (emitCode hw 0x1D#5 s) := rfl

theorem exec_char1E (s : State) : exec .char1E s = .next (emitCode hw 0x1E#5 s) := rfl

/-- The seven things an instruction can do to a state. -/
inductive ExecEffect (i : Instr) (s t : State) : Prop where
  /-- A code pushes its frame. -/
  | code (c : Code) (h : emitCode hw c s = t) (k : i.isCommand = false)
  /-- A symbol is keyed. -/
  | symbol (v : Sym) (h : key hw v s = t) (k : i.isCommand = false)
  /-- A text is rendered. -/
  | rendered (text : List Byte) (h : render hw text s = t) (k : i = .setmsg text ∨ i = .stop ∧ text = [])
  /-- `BASE` is written. -/
  | freq (imm : Word) (h : s.setBase imm = t) (k : i = .setfreq imm)
  /-- `DELAY` is written. -/
  | delay (imm : Word) (h : s.setDelay imm = t) (k : i = .setdelay imm)
  /-- The timing state machine is polled. -/
  | polled (h : poll hw s = t) (k : i = .poll)
  /-- Nothing. -/
  | nothing (opcode : Byte) (h : s = t) (k : i = .reserved opcode)

/-- What `exec` did, from the state it gave. -/
theorem exec_effect {i : Instr} {s t : State} (h : exec i s = .next t) : ExecEffect i s t := by
  cases i with
  | setfreq imm => rw [exec_setfreq, Host.Outcome.next.injEq] at h; exact .freq imm h rfl
  | setmsg text => rw [exec_setmsg, Host.Outcome.next.injEq] at h; exact .rendered text h (.inl rfl)
  | setdelay imm => rw [exec_setdelay, Host.Outcome.next.injEq] at h; exact .delay imm h rfl
  | poll => rw [exec_poll, Host.Outcome.next.injEq] at h; exact .polled h rfl
  | reserved opcode => rw [exec_reserved, Host.Outcome.next.injEq] at h; exact .nothing opcode h rfl
  | stop => rw [exec_stop, Host.Outcome.next.injEq] at h; exact .rendered [] h (.inr ⟨rfl, rfl⟩)
  | sil => rw [exec_sil, Host.Outcome.next.injEq] at h; exact .symbol _ h rfl
  | mark => rw [exec_mark, Host.Outcome.next.injEq] at h; exact .symbol _ h rfl
  | space => rw [exec_space, Host.Outcome.next.injEq] at h; exact .symbol _ h rfl
  | symInvalid => rw [exec_symInvalid, Host.Outcome.next.injEq] at h; exact .symbol _ h rfl
  | codeLtrs => rw [exec_codeLtrs, Host.Outcome.next.injEq] at h; exact .code _ h rfl
  | codeFigs => rw [exec_codeFigs, Host.Outcome.next.injEq] at h; exact .code _ h rfl
  | codeUnused => rw [exec_codeUnused, Host.Outcome.next.injEq] at h; exact .code _ h rfl
  | char01 => rw [exec_char01, Host.Outcome.next.injEq] at h; exact .code _ h rfl
  | char02 => rw [exec_char02, Host.Outcome.next.injEq] at h; exact .code _ h rfl
  | char03 => rw [exec_char03, Host.Outcome.next.injEq] at h; exact .code _ h rfl
  | char04 => rw [exec_char04, Host.Outcome.next.injEq] at h; exact .code _ h rfl
  | char05 => rw [exec_char05, Host.Outcome.next.injEq] at h; exact .code _ h rfl
  | char06 => rw [exec_char06, Host.Outcome.next.injEq] at h; exact .code _ h rfl
  | char07 => rw [exec_char07, Host.Outcome.next.injEq] at h; exact .code _ h rfl
  | char08 => rw [exec_char08, Host.Outcome.next.injEq] at h; exact .code _ h rfl
  | char09 => rw [exec_char09, Host.Outcome.next.injEq] at h; exact .code _ h rfl
  | char0A => rw [exec_char0A, Host.Outcome.next.injEq] at h; exact .code _ h rfl
  | char0B => rw [exec_char0B, Host.Outcome.next.injEq] at h; exact .code _ h rfl
  | char0C => rw [exec_char0C, Host.Outcome.next.injEq] at h; exact .code _ h rfl
  | char0D => rw [exec_char0D, Host.Outcome.next.injEq] at h; exact .code _ h rfl
  | char0E => rw [exec_char0E, Host.Outcome.next.injEq] at h; exact .code _ h rfl
  | char0F => rw [exec_char0F, Host.Outcome.next.injEq] at h; exact .code _ h rfl
  | char10 => rw [exec_char10, Host.Outcome.next.injEq] at h; exact .code _ h rfl
  | char11 => rw [exec_char11, Host.Outcome.next.injEq] at h; exact .code _ h rfl
  | char12 => rw [exec_char12, Host.Outcome.next.injEq] at h; exact .code _ h rfl
  | char13 => rw [exec_char13, Host.Outcome.next.injEq] at h; exact .code _ h rfl
  | char14 => rw [exec_char14, Host.Outcome.next.injEq] at h; exact .code _ h rfl
  | char15 => rw [exec_char15, Host.Outcome.next.injEq] at h; exact .code _ h rfl
  | char16 => rw [exec_char16, Host.Outcome.next.injEq] at h; exact .code _ h rfl
  | char17 => rw [exec_char17, Host.Outcome.next.injEq] at h; exact .code _ h rfl
  | char18 => rw [exec_char18, Host.Outcome.next.injEq] at h; exact .code _ h rfl
  | char19 => rw [exec_char19, Host.Outcome.next.injEq] at h; exact .code _ h rfl
  | char1A => rw [exec_char1A, Host.Outcome.next.injEq] at h; exact .code _ h rfl
  | char1C => rw [exec_char1C, Host.Outcome.next.injEq] at h; exact .code _ h rfl
  | char1D => rw [exec_char1D, Host.Outcome.next.injEq] at h; exact .code _ h rfl
  | char1E => rw [exec_char1E, Host.Outcome.next.injEq] at h; exact .code _ h rfl

end Sys2Proof.Machine
end

