-- ==== Sys2Proof/Laws/Keying.lean ====
section
/-! SUPPORT. What the dispatch and a poll can do: spec/43_vfo_keying.md rules R160 to R164, spec/42_timing_fsm.md rule R141. -/

namespace Sys2Proof.Machine

@[simp] theorem keyCmds_sil (p : Config.Params) (b : Word) : keyCmds p b symSil = [.setOutputEnabled false] := rfl

@[simp] theorem keyCmds_mark (p : Config.Params) (b : Word) :
    keyCmds p b symMark = [.setOutputEnabled true, .setFrequency b] := rfl

@[simp] theorem keyCmds_space (p : Config.Params) (b : Word) :
    keyCmds p b symSpace = [.setOutputEnabled true, .setFrequency (b - p.shiftHz)] := rfl

@[simp] theorem keyCmds_invalid (p : Config.Params) (b : Word) : keyCmds p b 3#2 = [] := rfl

/-- The four values of a cell. -/
theorem sym_cases (v : Sym) : v = symSil ∨ v = symMark ∨ v = symSpace ∨ v = 3#2 := by
  revert v; decide

/-- The state a firing poll leaves (R143). -/
theorem fire_eq (p : Config.Params) (s : State) (now : Word) :
    fire p s now =
      { s with
        vfo := s.vfo ++ keyCmds p s.base (s.readSym s.rd.toNat), last := now, rd := nextRd s } := rfl

/-- All a poll can do (R141): nothing, or fire on the present clock sample. -/
theorem poll_cases (p : Config.Params) (s : State) :
    (fires p s s.nowMs = false ∧ poll p s = s) ∨ (fires p s s.nowMs = true ∧ poll p s = fire p s s.nowMs) := by
  cases h : fires p s s.nowMs with
  | false => exact .inl ⟨rfl, by simp [poll, h]⟩
  | true =>
    have hi : s.idle = false := by
      simp only [fires, Bool.and_eq_true, Bool.not_eq_true'] at h
      exact h.1
    exact .inr ⟨rfl, by simp [poll, h, hi]⟩

/-- When a poll fires (R141, R142). -/
theorem fires_iff (p : Config.Params) (s : State) (now : Word) :
    fires p s now = true ↔ s.wr ≠ 0 ∧ p.symbolMs ≤ now - s.last := by
  simp [fires, State.idle, elapsed, BitVec.ule_iff_le]

/-- The read position after a firing poll, as a number, where the stream is no longer than the memory (R143). -/
theorem nextRd_toNat (s : State) (h : s.rd.toNat < s.wr.toNat) (hw : s.wr.toNat ≤ 2048) :
    (nextRd s).toNat = if s.rd.toNat + 1 = s.wr.toNat then 0 else s.rd.toNat + 1 := by
  unfold nextRd
  split
  · rfl
  · rw [BitVec.toNat_add]
    simp only [BitVec.toNat_ofNat]
    omega

end Sys2Proof.Machine
end

