-- ==== Sys2Proof/Laws/Memory.lean ====
section
/-! SUPPORT. The laws of the symbol memory: reading after writing, and that a write keeps the canonical form. -/

namespace Sys2Proof.Machine

/-- A write and then a read: the value written at its cell, every other cell as it was. -/
theorem Memory.read_write (m : Memory) (a b : Nat) (v : Sym) :
    (m.write a v).read b = if b = a then some v else m.read b := by
  induction m with
  | nil =>
    by_cases h : b = a
    · simp [Memory.write, Memory.read, h]
    · simp [Memory.write, Memory.read, h, Ne.symm h]
  | cons c cells ih =>
    obtain ⟨c, w⟩ := c
    by_cases h : b = a
    · subst h
      by_cases h1 : b < c
      · simp [Memory.write, Memory.read, h1]
      · by_cases h2 : b = c
        · simp [Memory.write, Memory.read, h2]
        · have h3 : ¬c = b := fun e => h2 e.symm
          simpa [Memory.write, Memory.read, h1, h2, h3] using ih
    · have h' : ¬a = b := fun e => h e.symm
      by_cases h1 : a < c
      · simp [Memory.write, Memory.read, h1, h, h']
      · by_cases h2 : a = c
        · subst h2; simp [Memory.write, Memory.read, h, h']
        · by_cases h3 : c = b
          · subst h3; simp [Memory.write, Memory.read, h1, h2, h]
          · simpa [Memory.write, Memory.read, h1, h2, h3, h] using ih

@[simp] theorem Memory.read_write_same (m : Memory) (a : Nat) (v : Sym) : (m.write a v).read a = some v := by
  simp [Memory.read_write]

theorem Memory.read_write_other (m : Memory) (a b : Nat) (v : Sym) (h : b ≠ a) :
    (m.write a v).read b = m.read b := by
  simp [Memory.read_write, h]

/-- A write adds its own cell and no other. -/
theorem Memory.mem_write {m : Memory} {a : Nat} {v : Sym} {c : Nat × Sym} (h : c ∈ m.write a v) :
    c = (a, v) ∨ c ∈ m := by
  induction m with
  | nil => simpa [Memory.write] using h
  | cons d cells ih =>
    obtain ⟨d, w⟩ := d
    simp only [Memory.write] at h
    split at h
    · simpa using h
    · split at h
      · rcases List.mem_cons.mp h with h | h
        · exact .inl h
        · exact .inr (List.mem_cons_of_mem _ h)
      · rcases List.mem_cons.mp h with h | h
        · exact .inr (h ▸ List.mem_cons_self)
        · exact (ih h).imp_right (List.mem_cons_of_mem _)

/-- A write keeps the canonical form. -/
theorem Memory.write_wf {m : Memory} (a : Nat) (v : Sym) (h : m.wf) : (m.write a v).wf := by
  induction m with
  | nil => simp [Memory.write, Memory.wf]
  | cons d cells ih =>
    obtain ⟨d, w⟩ := d
    have hd : ∀ b ∈ cells.map Prod.fst, d < b := (List.pairwise_cons.mp h).1
    have hc : Memory.wf cells := (List.pairwise_cons.mp h).2
    simp only [Memory.write]
    split
    · rename_i had
      refine List.pairwise_cons.mpr ⟨fun b hb => ?_, h⟩
      rcases List.mem_cons.mp hb with rfl | hb
      · exact had
      · exact had.trans (hd b hb)
    · split
      · rename_i had; exact had ▸ h
      · rename_i hlt hne
        refine List.pairwise_cons.mpr ⟨fun b hb => ?_, ih hc⟩
        obtain ⟨c, hmem, rfl⟩ := List.mem_map.mp hb
        rcases Memory.mem_write hmem with rfl | hmem
        · exact lt_of_le_of_ne (Nat.le_of_not_lt hlt) (Ne.symm hne)
        · exact hd _ (List.mem_map.mpr ⟨c, hmem, rfl⟩)

/-- The memory after reset has its canonical form. -/
theorem State.reset_memory_wf : State.reset.sym.wf := List.Pairwise.nil

end Sys2Proof.Machine
end

