-- ==== Sys2Proof/Laws/Queue.lean ====
section
/-! SUPPORT. What pushing, emitting and rendering can do to a state: spec/41_queue_render.md rules R120 to R128. The proofs
about an instruction that writes the queue cite these and unfold nothing. -/

namespace Sys2Proof.Machine

/-- The fields a push leaves alone: all but `SYM` and `WR`. -/
structure SameButQueue (s t : State) : Prop where
  /-- `FIGS`. -/
  figs : t.figs = s.figs
  /-- `RD`. -/
  rd : t.rd = s.rd
  /-- `LAST`. -/
  last : t.last = s.last
  /-- `BASE`. -/
  base : t.base = s.base
  /-- `DELAY`. -/
  delay : t.delay = s.delay
  /-- The decoder. -/
  dec : t.dec = s.dec
  /-- The clock's level. -/
  nowMs : t.nowMs = s.nowMs
  /-- The events to come. -/
  port : t.port = s.port
  /-- The VFO recorder. -/
  vfo : t.vfo = s.vfo
  /-- The count of resets. -/
  resets : t.resets = s.resets

theorem SameButQueue.refl (s : State) : SameButQueue s s := by constructor <;> rfl

theorem SameButQueue.trans {s t u : State} (h : SameButQueue s t) (k : SameButQueue t u) : SameButQueue s u := by
  constructor
  · exact k.figs.trans h.figs
  · exact k.rd.trans h.rd
  · exact k.last.trans h.last
  · exact k.base.trans h.base
  · exact k.delay.trans h.delay
  · exact k.dec.trans h.dec
  · exact k.nowMs.trans h.nowMs
  · exact k.port.trans h.port
  · exact k.vfo.trans h.vfo
  · exact k.resets.trans h.resets

/-- Everything that pushing the symbols `vs` does (R120, R123): the leading ones that fit are stored from `WR` on, the rest
dropped. -/
structure Pushed (p : Config.Params) (vs : List Sym) (s t : State) : Prop where
  /-- `WR` counts the symbols stored. -/
  wr : t.wr.toNat = min p.capacity (s.wr.toNat + vs.length)
  /-- The cells from the old `WR` up to the new one hold the symbols in order, all others are as they were. -/
  cells : ∀ a, t.sym.read a =
    if s.wr.toNat ≤ a ∧ a < t.wr.toNat then vs[a - s.wr.toNat]? else s.sym.read a
  /-- The canonical form is kept. -/
  memory : s.sym.wf → t.sym.wf
  /-- No cell outside the address space is added. -/
  within : (∀ c ∈ s.sym, c.1 < p.capacity) → ∀ c ∈ t.sym, c.1 < p.capacity
  /-- The rest of the state. -/
  rest : SameButQueue s t

/-- `WR + 1` does not overflow while there is room (R11). -/
theorem wr_succ_toNat (p : Config.Params) (w : BitVec 12) (h : w.toNat < p.capacity) : (w + 1#12).toNat = w.toNat + 1 := by
  have := p.capacity_le
  simp only [BitVec.toNat_add, BitVec.toNat_ofNat]
  omega

theorem qPush_full (p : Config.Params) (v : Sym) (s : State) (h : s.wr.toNat = p.capacity) : qPush p v s = s := by
  simp [qPush, h]

/-- A push followed by the pushes of a list. -/
theorem Pushed.cons (p : Config.Params) (v : Sym) (vs : List Sym) (s t : State) (hw : s.wr.toNat ≤ p.capacity)
    (h : Pushed p vs (qPush p v s) t) : Pushed p (v :: vs) s t := by
  rcases Nat.lt_or_ge s.wr.toNat p.capacity with hlt | hge
  · have e : qPush p v s = (s.setSym (s.sym.write s.wr.toNat v)).setWr (s.wr + 1#12) := by simp [qPush, hlt]
    have w := wr_succ_toNat p s.wr hlt
    rw [e] at h
    have hwr : t.wr.toNat = min p.capacity (s.wr.toNat + (vs.length + 1)) := by
      rw [h.wr, State.setWr_wr, w, Nat.add_assoc, Nat.add_comm 1]
    refine ⟨by simpa using hwr, fun a => ?_, fun k => h.memory (Memory.write_wf _ _ k), fun k => h.within fun c hc => ?_, ?_⟩
    · rw [h.cells a, State.setWr_wr, w, State.setWr_sym, State.setSym_sym, Memory.read_write]
      by_cases ha : a = s.wr.toNat
      · subst ha
        have : s.wr.toNat < t.wr.toNat := by omega
        simp [this]
      · by_cases hb : s.wr.toNat + 1 ≤ a ∧ a < t.wr.toNat
        · have hc : s.wr.toNat ≤ a ∧ a < t.wr.toNat := ⟨by omega, hb.2⟩
          have hd : a - s.wr.toNat = (a - (s.wr.toNat + 1)) + 1 := by omega
          simp [hb, hc, hd]
        · have hc : ¬(s.wr.toNat ≤ a ∧ a < t.wr.toNat) := by omega
          rw [if_neg hb, if_neg hc, if_neg ha]
    · rcases Memory.mem_write hc with rfl | hc
      · exact hlt
      · exact k c hc
    · exact SameButQueue.trans (by constructor <;> rfl) h.rest
  · have hf : s.wr.toNat = p.capacity := Nat.le_antisymm hw hge
    rw [qPush_full p v s hf] at h
    have hwr : t.wr.toNat = p.capacity := by rw [h.wr, hf]; simp
    refine ⟨by rw [hwr, hf]; simp, fun a => ?_, h.memory, h.within, h.rest⟩
    have hc : ¬(s.wr.toNat ≤ a ∧ a < t.wr.toNat) := by omega
    rw [h.cells a]
    simp [hc]

/-- Pushing a list of symbols (R123). -/
theorem pushAll_pushed (p : Config.Params) (vs : List Sym) (s : State) (h : s.wr.toNat ≤ p.capacity) :
    Pushed p vs s (pushAll p vs s) := by
  induction vs generalizing s with
  | nil =>
    refine ⟨by simp [pushAll, h], fun a => ?_, id, id, SameButQueue.refl s⟩
    have hc : ¬(s.wr.toNat ≤ a ∧ a < s.wr.toNat) := by omega
    simp [pushAll, hc]
  | cons v vs ih =>
    refine Pushed.cons p v vs s _ h (ih (qPush p v s) ?_)
    rcases Nat.lt_or_ge s.wr.toNat p.capacity with hlt | hge
    · have e : (qPush p v s).wr = s.wr + 1#12 := by simp [qPush, hlt]
      rw [e, wr_succ_toNat p s.wr hlt]
      exact hlt
    · rw [qPush_full p v s (Nat.le_antisymm h hge)]
      exact h

theorem pushAll_append (p : Config.Params) (vs us : List Sym) (s : State) :
    pushAll p (vs ++ us) s = pushAll p us (pushAll p vs s) := by
  simp [pushAll]

/-- Emitting codes is pushing their frames (R123, R124). -/
theorem emitCodes_eq_pushAll (p : Config.Params) (cs : List (BitVec p.codeW)) (s : State) :
    emitCodes p cs s = pushAll p (cs.flatMap (expand p.toCodeSpace)) s := by
  induction cs generalizing s with
  | nil => rfl
  | cons c cs ih =>
    rw [List.flatMap_cons, pushAll_append]
    exact ih (emitCode p c s)

@[simp] theorem dataSyms_length (k : Config.CodeSpace) (c : BitVec k.codeW) : (dataSyms k c).length = k.codeW := by
  simp [dataSyms]

/-- A frame has `FRAME_LEN` symbols (R73). -/
@[simp] theorem expand_length (k : Config.CodeSpace) (c : BitVec k.codeW) : (expand k c).length = k.frameLen := by
  have := k.frame_fits
  simp only [expand, List.length_append, List.length_cons, dataSyms_length, List.length_replicate]
  omega

theorem mem_dataSyms {k : Config.CodeSpace} {c : BitVec k.codeW} {v : Sym} (h : v ∈ dataSyms k c) :
    v = symMark ∨ v = symSpace := by
  have hb : ∀ b, bitSym b = symMark ∨ bitSym b = symSpace := by decide
  obtain ⟨i, -, rfl⟩ := List.mem_map.1 h
  exact hb _

/-- A frame holds only Marks and Spaces (R122). -/
theorem mem_expand {k : Config.CodeSpace} {c : BitVec k.codeW} {v : Sym} (h : v ∈ expand k c) :
    v = symMark ∨ v = symSpace := by
  simp only [expand, List.cons_append, List.mem_cons, List.mem_append, List.mem_replicate] at h
  rcases h with h | h | h
  · exact .inr h
  · exact mem_dataSyms h
  · exact .inl h.2

/-- A push does not read `FIGS`. -/
theorem qPush_setFigs (p : Config.Params) (v : Sym) (s : State) (f : Bool) :
    qPush p v (s.setFigs f) = (qPush p v s).setFigs f := by
  unfold qPush
  rw [State.setFigs_wr]
  split <;> rfl

theorem pushAll_setFigs (p : Config.Params) (vs : List Sym) (s : State) (f : Bool) :
    pushAll p vs (s.setFigs f) = (pushAll p vs s).setFigs f := by
  induction vs generalizing s with
  | nil => rfl
  | cons v vs ih =>
    change pushAll p vs (qPush p v (s.setFigs f)) = _
    rw [qPush_setFigs]
    exact ih (qPush p v s)

end Sys2Proof.Machine
end

