-- ==== Sys2Proof/Laws/Render.lean ====
section
/-! SUPPORT. What rendering a text does, in terms of one list of symbols: spec/41_queue_render.md rules R124 to R126. -/

namespace Sys2Proof.Machine

theorem setFigs_setFigs (s : State) (f g : Bool) : (s.setFigs f).setFigs g = s.setFigs g := rfl

theorem setFigs_self (s : State) : s.setFigs s.figs = s := rfl

theorem emitChar_eq (p : Config.Params) (ch : Byte) (s : State) :
    emitChar p ch s =
      (pushAll p ((encodeChar p.rom ch s.figs).1.flatMap (expand p.toCodeSpace)) s).setFigs (encodeChar p.rom ch s.figs).2 := by
  rw [emitChar, emitCodes_eq_pushAll, pushAll_setFigs]

/-- Rendering characters is pushing the frames of their codes and leaving the codec's mode (R124, R125 step 4). -/
theorem emitText_eq (p : Config.Params) (text : List Byte) (s : State) :
    emitText p text s =
      (pushAll p ((textCodes p.rom text s.figs).flatMap (expand p.toCodeSpace)) s).setFigs (textMode p.rom text s.figs) := by
  induction text generalizing s with
  | nil => rfl
  | cons ch text ih =>
    have e : emitText p (ch :: text) s = emitText p text (emitChar p ch s) := rfl
    rw [e, ih, emitChar_eq, State.setFigs_figs, pushAll_setFigs, setFigs_setFigs]
    simp only [textCodes, textMode, List.flatMap_append, pushAll_append]

/-- The state after the preamble and the Letters-shift (R125 steps 2 and 3). -/
theorem opening_eq (p : Config.Params) (s : State) :
    opening p s =
      (pushAll p (List.replicate p.preambleMarks symMark ++ expand p.toCodeSpace p.codeLtrs) s).setFigs false := by
  rw [pushAll_append]; rfl

/-- Rendering is resetting the cursor, pushing the untruncated stream and leaving the codec's mode (R125, R126). -/
theorem render_eq (p : Config.Params) (text : List Byte) (s : State) :
    render p text s = (pushAll p (messageSyms p text) (qReset s)).setFigs (textMode p.rom text false) := by
  unfold render messageSyms
  split
  · rename_i h
    rw [h.1]; rfl
  · rw [emitText_eq, opening_eq]
    simp only [State.setFigs_figs, pushAll_setFigs, setFigs_setFigs, pushAll_append]

/-- Every symbol a render pushes is a Mark or a Space (R28). -/
theorem mem_messageSyms {p : Config.Params} {text : List Byte} {v : Sym} (h : v ∈ messageSyms p text) :
    v = symMark ∨ v = symSpace := by
  unfold messageSyms at h
  split at h
  · cases h
  · simp only [List.mem_append, List.mem_replicate, List.mem_flatMap] at h
    rcases h with (h | h) | ⟨c, -, h⟩
    · exact .inl h.2
    · exact mem_expand h
    · exact mem_expand h

end Sys2Proof.Machine
end

