-- ==== Sys2Proof/Laws/Step.lean ====
section
/-! SUPPORT. What receiving and a step can do: spec/30_encoding.md rule R84. -/

namespace Sys2Proof.Machine

@[simp] theorem receive_nil (dec : List Byte) (now : Word) : receive dec now [] = .waiting dec now := rfl

@[simp] theorem receive_reset (dec : List Byte) (now : Word) (es : List PinEvent) :
    receive dec now (.reset :: es) = .reset now es := rfl

@[simp] theorem receive_resetDuring (dec : List Byte) (now : Word) (k : Nat) (es : List PinEvent) :
    receive dec now (.resetDuring k :: es) = .reset now es := rfl

@[simp] theorem receive_clock (dec : List Byte) (now t : Word) (es : List PinEvent) :
    receive dec now (.clock t :: es) = receive dec t es := rfl

@[simp] theorem eventBytes_map_byte (bs : List Byte) : eventBytes (bs.map .byte) = bs := by
  induction bs with
  | nil => rfl
  | cons b bs ih => simp [eventBytes, ih]

@[simp] theorem clockAfter_map_byte (now : Word) (bs : List Byte) : clockAfter now (bs.map .byte) = now := by
  induction bs with
  | nil => rfl
  | cons b bs ih => simp [clockAfter, ih]

theorem receive_byte_refused {dec : List Byte} {b : Byte} {r : DecodeRefusal} (now : Word) (es : List PinEvent)
    (h : decode (dec ++ [b]) = .refused r) :
    receive dec now (.byte b :: es) = receive (dec ++ [b]) now es := by
  simp [receive, h]

theorem receive_byte_instr {dec rest : List Byte} {b : Byte} {i : Instr} (now : Word) (es : List PinEvent)
    (h : decode (dec ++ [b]) = .instr i rest) :
    receive dec now (.byte b :: es) = .command i now (rest.map PinEvent.byte ++ es) := by
  simp [receive, h]

/-- What a step does, from what receiving came to. -/
theorem step_reset {s : State} {now : Word} {es : List PinEvent}
    (h : receive [] s.nowMs (s.dec.map PinEvent.byte ++ s.port) = .reset now es) :
    step s = .next (takeReset (((s.setDec []).setNowMs now).setPort es)) := by
  simp [step, fetch, h]

theorem step_waiting {s : State} {dec : List Byte} {now : Word}
    (h : receive [] s.nowMs (s.dec.map PinEvent.byte ++ s.port) = .waiting dec now) :
    step s = .next (((s.setDec dec).setNowMs now).setPort []) := by
  simp [step, fetch, h]

theorem step_cut {s : State} {i : Instr} {now : Word} {k : Nat} {es : List PinEvent} {u : State}
    (h : receive [] s.nowMs (s.dec.map PinEvent.byte ++ s.port) = .command i now (.resetDuring k :: es))
    (e : exec i (((s.setDec []).setNowMs now).setPort es) = .next u) :
    step s = .next (abandon (((s.setDec []).setNowMs now).setPort es) u k) := by
  simp [step, fetch, h, e]

theorem step_command {s : State} {i : Instr} {now : Word} {es : List PinEvent}
    (h : receive [] s.nowMs (s.dec.map PinEvent.byte ++ s.port) = .command i now es)
    (hr : ∀ k, es.head? ≠ some (.resetDuring k)) :
    step s = exec i (((s.setDec []).setNowMs now).setPort es) := by
  unfold step fetch
  rw [h]
  cases es with
  | nil => rfl
  | cons e es =>
    cases e with
    | resetDuring k => exact absurd rfl (hr k)
    | byte b => rfl
    | clock t => rfl
    | reset => rfl

/-- All a step can do, by what receiving came to. -/
inductive StepEffect (s : State) (o : Host.Outcome State Fault Refusal) : Prop where
  /-- A command was received and executed. -/
  | command (i : Instr) (now : Word) (es : List PinEvent)
    (r : receive [] s.nowMs (s.dec.map PinEvent.byte ++ s.port) = .command i now es)
    (k : ∀ k, es.head? ≠ some (.resetDuring k))
    (h : exec i (((s.setDec []).setNowMs now).setPort es) = o)
  /-- A command was received and abandoned while it executed. -/
  | cut (i : Instr) (now : Word) (k : Nat) (es : List PinEvent)
    (r : receive [] s.nowMs (s.dec.map PinEvent.byte ++ s.port) = .command i now (.resetDuring k :: es))
    (h : ∀ u, exec i (((s.setDec []).setNowMs now).setPort es) = .next u →
      .next (abandon (((s.setDec []).setNowMs now).setPort es) u k) = o)
  /-- A reset came first. -/
  | reset (now : Word) (es : List PinEvent)
    (r : receive [] s.nowMs (s.dec.map PinEvent.byte ++ s.port) = .reset now es)
    (h : .next (takeReset (((s.setDec []).setNowMs now).setPort es)) = o)
  /-- Nothing more arrived. -/
  | waiting (dec : List Byte) (now : Word)
    (r : receive [] s.nowMs (s.dec.map PinEvent.byte ++ s.port) = .waiting dec now)
    (h : .next (((s.setDec dec).setNowMs now).setPort []) = o)

theorem step_effect (s : State) : StepEffect s (step s) := by
  cases h : receive [] s.nowMs (s.dec.map PinEvent.byte ++ s.port) with
  | reset now es => exact .reset now es h (step_reset h).symm
  | waiting dec now => exact .waiting dec now h (step_waiting h).symm
  | command i now es =>
    by_cases hr : ∃ k, es.head? = some (.resetDuring k)
    · obtain ⟨k, hk⟩ := hr
      cases es with
      | nil => cases hk
      | cons e es =>
        cases hk
        exact .cut i now k es h fun u hu => (step_cut h hu).symm
    · exact .command i now es h (fun k hk => hr ⟨k, hk⟩) (step_command h fun k hk => hr ⟨k, hk⟩).symm

/-- A step restarts the cursor when it executes a `SETMSG`, when it is cut short, and when it takes a reset. -/
theorem restarts_setmsg {s : State} {text : List Byte} {now : Word} {es : List PinEvent}
    (h : receive [] s.nowMs (s.dec.map PinEvent.byte ++ s.port) = .command (.setmsg text) now es) :
    s.restarts = true := by
  unfold State.restarts fetch
  rw [h]
  cases es with
  | nil => rfl
  | cons e es => cases e <;> rfl

theorem restarts_stop {s : State} {now : Word} {es : List PinEvent}
    (h : receive [] s.nowMs (s.dec.map PinEvent.byte ++ s.port) = .command .stop now es) : s.restarts = true := by
  unfold State.restarts fetch
  rw [h]
  cases es with
  | nil => rfl
  | cons e es => cases e <;> rfl

theorem restarts_cut {s : State} {i : Instr} {now : Word} {k : Nat} {es : List PinEvent}
    (h : receive [] s.nowMs (s.dec.map PinEvent.byte ++ s.port) = .command i now (.resetDuring k :: es)) :
    s.restarts = true := by
  simp [State.restarts, fetch, h]

theorem restarts_reset {s : State} {now : Word} {es : List PinEvent}
    (h : receive [] s.nowMs (s.dec.map PinEvent.byte ++ s.port) = .reset now es) : s.restarts = true := by
  simp [State.restarts, fetch, h]

/-- What an abandoned operation leaves, given the commands the whole of it issues. -/
theorem abandon_eq {s u : State} {cmds : List VfoCmd} (k : Nat) (h : u.vfo = s.vfo ++ cmds) :
    abandon s u k = { State.reset with
      nowMs := s.nowMs, port := s.port, vfo := s.vfo ++ cmds.take k, resets := s.resets + 1 } := by
  simp [abandon, takeReset, h, List.take_append]

end Sys2Proof.Machine
end

