-- ==== Sys2Proof/Machine/Assembler.lean ====
section
/-! DEFINITION. The textual syntax of command programs, spec/30_encoding.md rules R85 and R86: one command per line, to the
events at the core's inputs. It is notation for writing programs (D19); no rule of the machine uses it. -/

namespace Sys2Proof.Machine

/-- The double quote that opens and closes a string (R85). -/
def asmQuote : Char := Char.ofNat 34

/-- The backslash that begins an escape (R85). -/
def asmBackslash : Char := Char.ofNat 92

/-- A space or a tab. -/
def asmBlank (c : Char) : Bool := c == ' ' || c == Char.ofNat 9

/-- The characters after any blanks. -/
def skipBlanks : List Char → List Char
  | [] => []
  | c :: cs => if asmBlank c then skipBlanks cs else c :: cs

/-- Nothing but blanks, or a comment, which runs from `;` to the end of the line (R85). -/
def lineEnds (cs : List Char) : Bool :=
  match skipBlanks cs with
  | [] => true
  | c :: _ => c == ';'

/-- The value of a digit in a number base. -/
def digitVal (base : Nat) (c : Char) : Option Nat :=
  let n := c.toNat
  let v :=
    if 48 ≤ n ∧ n ≤ 57 then n - 48
    else if 65 ≤ n ∧ n ≤ 70 then n - 55
    else if 97 ≤ n ∧ n ≤ 102 then n - 87
    else base
  if v < base then some v else none

/-- The digits at the front, after the value `acc` of those before them. -/
def takeDigits (base acc : Nat) : List Char → Nat × List Char
  | [] => (acc, [])
  | c :: cs =>
    match digitVal base c with
    | some v => takeDigits base (base * acc + v) cs
    | none => (acc, c :: cs)

/-- A number, decimal or `0x` hexadecimal (R85), with at least one digit. -/
def takeNumber : List Char → Option (Nat × List Char)
  | '0' :: 'x' :: c :: cs => if (digitVal 16 c).isSome then some (takeDigits 16 0 (c :: cs)) else none
  | c :: cs => if (digitVal 10 c).isSome then some (takeDigits 10 0 (c :: cs)) else none
  | [] => none

/-- The byte of a one-letter escape: `\r`, `\n`, `\a`, a quote, a backslash (R85). -/
def escapeByte (c : Char) : Option Byte :=
  if c = 'r' then some 0x0D#8
  else if c = 'n' then some 0x0A#8
  else if c = 'a' then some 0x07#8
  else if c = asmQuote then some 0x22#8
  else if c = asmBackslash then some 0x5C#8
  else none

/-- The byte of a plain character: any 8-bit value but 0 (R85). -/
def plainByte (c : Char) : Option Byte :=
  if 0 < c.toNat ∧ c.toNat < 256 then some (BitVec.ofNat 8 c.toNat) else none

/-- The byte of `\xHH`, any but 0 (R85). -/
def hexByte (h l : Char) : Option Byte :=
  match digitVal 16 h, digitVal 16 l with
  | some a, some b => if 16 * a + b = 0 then none else some (BitVec.ofNat 8 (16 * a + b))
  | _, _ => none

/-- A byte before the bytes of the rest of a string. -/
def consByte (b : Option Byte) (r : Option (List Byte × List Char)) : Option (List Byte × List Char) :=
  match b, r with
  | some b, some (bs, cs) => some (b :: bs, cs)
  | _, _ => none

/-- The bytes of a string after its opening quote, and what follows the closing one. -/
def takeString : List Char → Option (List Byte × List Char)
  | [] => none
  | [c] => if c = asmQuote then some ([], []) else none
  | c :: d :: cs =>
    if c = asmQuote then some ([], d :: cs)
    else if c = asmBackslash then
      if d = 'x' then
        match cs with
        | h :: l :: rest => consByte (hexByte h l) (takeString rest)
        | _ => none
      else consByte (escapeByte d) (takeString cs)
    else consByte (plainByte c) (takeString (d :: cs))

/-- What follows a keyword at the front of a line. -/
def dropKeyword : List Char → List Char → Option (List Char)
  | [], cs => if lineEnds cs || (cs.head?.map asmBlank).getD false then some cs else none
  | k :: ks, c :: cs => if k = c then dropKeyword ks cs else none
  | _ :: _, [] => none

/-- A number below `bound` as the only operand of a line. -/
def numberOperand (bound : Nat) (cs : List Char) : Option Nat :=
  match takeNumber (skipBlanks cs) with
  | some (n, rest) => if lineEnds rest && n < bound then some n else none
  | none => none

/-- A string as the only operand of a line. -/
def stringOperand (cs : List Char) : Option (List Byte) :=
  match skipBlanks cs with
  | [] => none
  | c :: rest =>
    if c = asmQuote then
      match takeString rest with
      | some (bs, tail) => if lineEnds tail then some bs else none
      | none => none
    else none

/-- The events of a command: its bytes (R85: the assembler appends the terminator, which `encodeBytes` writes). -/
def commandEvents (i : Instr) : List PinEvent := (encodeBytes i).map PinEvent.byte

/-- The operand of `POLL`: nothing, or the annotation `@ t`, which encodes to nothing and states the clock sample (R85). -/
def pollOperand (cs : List Char) : Option (List PinEvent) :=
  match skipBlanks cs with
  | '@' :: rest => (numberOperand (2 ^ 32) rest).map fun t => .clock (BitVec.ofNat 32 t) :: commandEvents .poll
  | rest => if lineEnds rest then some (commandEvents .poll) else none

/-- One line of a program (R85, R86): a command, the pseudo-instruction `STOP`, `.byte b`, or nothing. -/
def assembleLine (line : List Char) : Option (List PinEvent) :=
  let cs := skipBlanks line
  if lineEnds cs then some []
  else
    match dropKeyword ['S', 'E', 'T', 'F', 'R', 'E', 'Q'] cs with
    | some rest => (numberOperand (2 ^ 32) rest).map fun n => commandEvents (.setfreq (BitVec.ofNat 32 n))
    | none =>
    match dropKeyword ['S', 'E', 'T', 'D', 'E', 'L', 'A', 'Y'] cs with
    | some rest => (numberOperand (2 ^ 32) rest).map fun n => commandEvents (.setdelay (BitVec.ofNat 32 n))
    | none =>
    match dropKeyword ['S', 'E', 'T', 'M', 'S', 'G'] cs with
    | some rest => (stringOperand rest).map fun bs => commandEvents (.setmsg bs)
    | none =>
    match dropKeyword ['P', 'O', 'L', 'L'] cs with
    | some rest => pollOperand rest
    | none =>
    match dropKeyword ['S', 'T', 'O', 'P'] cs with
    | some rest => if lineEnds rest then some (commandEvents .stop) else none
    | none =>
    match dropKeyword ['.', 'b', 'y', 't', 'e'] cs with
    | some rest => (numberOperand 256 rest).map fun n => [.byte (BitVec.ofNat 8 n)]
    | none => none

/-- A program, line by line; `none` if some line is no command (R85). -/
def assemble : List (List Char) → Option (List PinEvent)
  | [] => some []
  | line :: lines =>
    match assembleLine line, assemble lines with
    | some es, some more => some (es ++ more)
    | _, _ => none

end Sys2Proof.Machine
end

