-- ==== Sys2Proof/Tests/Slice0.lean ====
section
/-! SUPPORT. Tests against spec/95_test_vectors.md (a vector's number stands in each docstring), the opcode table's words, and one
witness per statement that has hypotheses: `test_witness_<statement>` gives states and operands that meet them. -/

open Sys2Proof Sys2Proof.Machine

namespace Sys2Proof.Tests

set_option Elab.async false

/-- A stream as the vectors write it: `M` is Mark, `S` is Space, index 0 first. -/
def stream (t : String) : List Sym := t.toList.map fun c => if c = 'M' then symMark else symSpace

/-- The bytes of a text. -/
def txt (t : String) : List Byte := t.toList.map fun c => BitVec.ofNat 8 c.toNat

/-- The reset state with this stream in `SYM`. -/
def holding (vs : List Sym) : State :=
  { State.reset with sym := vs.zipIdx.map fun p => (p.2, p.1), wr := BitVec.ofNat 12 vs.length }

/-- The start of the vectors V6: the stream of the message "A", `BASE` 14080000. -/
def onAir (rd : Nat) (last now : Word) : State :=
  { holding (stream "MMMSMMMMMMMSMMSSSMM") with
    rd := BitVec.ofNat 11 rd, last := last, nowMs := now, base := 14080000 }

/-- The state after a next outcome; reset otherwise. -/
def after (o : Host.Outcome State Fault Refusal) : State :=
  match o with
  | .next t => t
  | .fault _ | .refused _ => State.reset

/-- Is this a next state? -/
def isNext (o : Host.Outcome State Fault Refusal) : Bool :=
  match o with
  | .next _ => true
  | .fault _ | .refused _ => false

theorem next_after {o : Host.Outcome State Fault Refusal} (h : isNext o = true) : o = .next (after o) := by
  cases o with
  | next t => rfl
  | fault r => cases h
  | refused r => cases h

theorem exists_next {o : Host.Outcome State Fault Refusal} (h : isNext o = true) : ∃ t, o = .next t :=
  ⟨_, next_after h⟩

/-- The same machine with another `CAPACITY`, for the vectors V4. -/
def small (n : Nat) (h : 1 ≤ n) (h' : n ≤ 2048) : Config.Params :=
  { hw with capacity := n, capacity_pos := h, capacity_le := h' }

/-- The events of bytes at the port. -/
def bytes (bs : List Byte) : List PinEvent := bs.map PinEvent.byte

/-! ## Well-formedness -/

/-- R79: no text byte is 0x00. -/
theorem test_zero_in_a_text_is_ill_formed : Instr.wellFormed (.setmsg [0x41, 0x00, 0x42]) = false := by decide +kernel

/-- R82: 0x01 to 0x04 are not reserved. -/
theorem test_assigned_bytes_are_not_reserved :
    Instr.wellFormed (.reserved 0x01) = false ∧ Instr.wellFormed (.reserved 0x02) = false ∧
      Instr.wellFormed (.reserved 0x03) = false ∧ Instr.wellFormed (.reserved 0x04) = false := by decide +kernel

/-- R82, R83. -/
theorem test_other_terms_are_well_formed :
    Instr.wellFormed (.reserved 0x00) ∧ Instr.wellFormed (.reserved 0x05) ∧ Instr.wellFormed (.reserved 0xFF) ∧
      Instr.wellFormed (.setmsg []) ∧ Instr.wellFormed (.setmsg [0xFF]) ∧ Instr.wellFormed (.setfreq 0xFFFFFFFF) := by decide +kernel

/-! ## Decoding: words written out from the spec's encodings -/

/-- V7.1, V7.9, V8.2: F4, opcode byte 0x01, little-endian. -/
theorem test_decode_setfreq :
    decode [0x01, 0x00, 0xD8, 0xD6, 0x00] = .instr (.setfreq 14080000) [] ∧
      decode [0x01, 0x56, 0xD7, 0xD6, 0x00] = .instr (.setfreq 14079830) [] ∧
      decode [0x01, 0xFF, 0xFF, 0xFF, 0xFF] = .instr (.setfreq 4294967295) [] := by decide +kernel

/-- V8.3, V8.4, V5.7: FS, opcode byte 0x02, text up to the first 0x00. -/
theorem test_decode_setmsg :
    decode [0x02, 0x00] = .instr (.setmsg []) [] ∧
      decode [0x02, 0x04, 0x01, 0x00, 0x04] = .instr (.setmsg [0x04, 0x01]) [0x04] ∧
      decode [0x02, 0x41, 0x80, 0x42, 0x00] = .instr (.setmsg [0x41, 0x80, 0x42]) [] := by decide +kernel

/-- V7.10, V7.11: F4, opcode byte 0x03. -/
theorem test_decode_setdelay :
    decode [0x03, 0x1E, 0x00, 0x00, 0x00] = .instr (.setdelay 30) [] ∧
      decode [0x03, 0x04, 0x03, 0x02, 0x01] = .instr (.setdelay 16909060) [] := by decide +kernel

/-- V8.1, V8.6: F0, opcode byte 0x04, and the reserved bytes. -/
theorem test_decode_poll_and_reserved :
    decode [0x04] = .instr .poll [] ∧ decode [0xFF, 0x04] = .instr (.reserved 0xFF) [0x04] ∧
      decode [0x00, 0x04] = .instr (.reserved 0x00) [0x04] ∧ decode [0x05] = .instr (.reserved 0x05) [] := by decide +kernel

/-- V8.5: the byte 0x02 inside an immediate is no opcode. -/
theorem test_decode_operand_bytes_are_no_opcodes :
    decode [0x01, 0x02, 0x00, 0x00, 0x00, 0x04] = .instr (.setfreq 2) [0x04] := by decide +kernel

/-- V8.7, V8.8: incomplete commands. -/
theorem test_decode_incomplete :
    decode [0x03, 0x1E, 0x00] = .refused (.incomplete 0x03) ∧ decode [0x02, 0x41] = .refused (.incomplete 0x02) ∧
      decode [0x01] = .refused (.incomplete 0x01) ∧ decode [] = .refused .noOpcode := by decide +kernel

/-- R70, R71. -/
theorem test_decode_symbols :
    [0b00, 0b01, 0b10, 0b11].map decodeSym = [.sil, .mark, .space, .symInvalid] := by decide +kernel

/-- R53, R74: codes 0x00 to 0x0F. -/
theorem test_decode_codes_low :
    [0b00000, 0b00001, 0b00010, 0b00011, 0b00100, 0b00101, 0b00110, 0b00111].map decodeCode =
        [.codeUnused, .char01, .char02, .char03, .char04, .char05, .char06, .char07] ∧
      [0b01000, 0b01001, 0b01010, 0b01011, 0b01100, 0b01101, 0b01110, 0b01111].map decodeCode =
        [.char08, .char09, .char0A, .char0B, .char0C, .char0D, .char0E, .char0F] := by decide +kernel

/-- R53, R74: codes 0x10 to 0x1F. -/
theorem test_decode_codes_high :
    [0b10000, 0b10001, 0b10010, 0b10011, 0b10100, 0b10101, 0b10110, 0b10111].map decodeCode =
        [.char10, .char11, .char12, .char13, .char14, .char15, .char16, .char17] ∧
      [0b11000, 0b11001, 0b11010, 0b11011, 0b11100, 0b11101, 0b11110, 0b11111].map decodeCode =
        [.char18, .char19, .char1A, .codeFigs, .char1C, .char1D, .char1E, .codeLtrs] := by decide +kernel

/-- R78, R86: the bytes the encoder writes. -/
theorem test_encode_bytes :
    encodeBytes (.setfreq 7041000) = [0x01, 0xE8, 0x6F, 0x6B, 0x00] ∧
      encodeBytes (.setmsg (txt "RY")) = [0x02, 0x52, 0x59, 0x00] ∧ encodeBytes .stop = [0x02, 0x00] ∧
      encodeBytes (.setdelay 30) = [0x03, 0x1E, 0x00, 0x00, 0x00] ∧ encodeBytes .poll = [0x04] ∧
      encodeBytes (.reserved 0xFF) = [0xFF] := by decide +kernel

/-- Rows of spec/opcode_table.json by their words. -/
theorem test_table_words :
    decodeTableWord 40 0x01 = some (.setfreq 0) ∧ decodeTableWord 16 0x02 = some (.setmsg []) ∧
      decodeTableWord 40 0x03 = some (.setdelay 0) ∧ decodeTableWord 8 0x04 = some .poll ∧
      decodeTableWord 8 0xFF = some (.reserved 0xFF) ∧ decodeTableWord 2 0x3 = some .symInvalid ∧
      decodeTableWord 5 0x18 = some .char18 := by decide +kernel

/-- Log 21: a word of eight bits that two groups share. -/
theorem test_table_words_of_eight_bits :
    decodeTableWord 8 0x00 = some .sil ∧ decodeTableWord 8 0x1F = some .codeLtrs ∧
      decodeTableWord 8 0x06 = some .char06 := by decide +kernel

/-! ## The codec -/

/-- V1.1, V1.7, V1.10, V1.14. -/
theorem test_lookup :
    lookup codeSpace ltrsRom 0x41 = some 0x18 ∧ lookup codeSpace figsRom 0x41 = none ∧ lookup codeSpace figsRom 0x20 = some 0x04 ∧
      lookup codeSpace ltrsRom 0x61 = none ∧ lookup codeSpace ltrsRom 0x00 = none := by decide +kernel

/-- V1.2, V1.4, V1.6, V1.9, V1.12. -/
theorem test_classify :
    classify romPair 0x5A = .letter 0x11 ∧ classify romPair 0x2D = .figure 0x18 ∧ classify romPair 0x07 = .figure 0x14 ∧
      classify romPair 0x0A = .shared 0x08 ∧ classify romPair 0x1B = .unsupported := by decide +kernel

/-- R105: the supported characters are 55, 26 of them Letters only and 3 shared. -/
theorem test_supported_characters :
    let chars := (List.range 256).map (BitVec.ofNat 8)
    (chars.filter fun c => classify romPair c ≠ .unsupported).length = 55 ∧
      (chars.filter fun c => (lookup codeSpace ltrsRom c).isSome).length = 29 ∧
      (chars.filter fun c => (lookup codeSpace ltrsRom c).isSome && (lookup codeSpace figsRom c).isSome).length = 3 := by decide +kernel

/-- V2.1 to V2.6, V2.8, V2.12. -/
theorem test_encode_char :
    encodeChar romPair 0x41 false = ([0x18], false) ∧ encodeChar romPair 0x41 true = ([0x1F, 0x18], false) ∧
      encodeChar romPair 0x31 true = ([0x1D], true) ∧ encodeChar romPair 0x31 false = ([0x1B, 0x1D], true) ∧
      encodeChar romPair 0x20 true = ([0x04], true) ∧ encodeChar romPair 0x61 true = ([], true) ∧
      encodeChar romPair 0x5A true = ([0x1F, 0x11], false) := by decide +kernel

/-! ## The queue and the codes -/

/-- V4.4, R123: a frame cut after five symbols at the end of the queue. -/
theorem test_char0A_is_cut_at_capacity :
    let t := after (exec .char0A { State.reset with wr := 2043 })
    t.wr = 2048 ∧ t.sym = [(2043, 2), (2044, 2), (2045, 1), (2046, 2), (2047, 1)] := by decide +kernel

/-- V4.3. -/
theorem test_full_queue_drops : after (exec .char18 { State.reset with wr := 2048 }) = { State.reset with wr := 2048 } := by
  decide +kernel

/-- V3.1: frames of the sentinels and of the unused code. -/
theorem test_frames_of_sentinels :
    (after (exec .codeLtrs State.reset)).stream = stream "SMMMMMMM" ∧
      (after (exec .codeFigs State.reset)).stream = stream "SMMSMMMM" ∧
      (after (exec .codeUnused State.reset)).stream = stream "SSSSSSMM" := by decide +kernel

/-- V3.1: frames of character codes, bit 4 first. -/
theorem test_frames_of_characters :
    (after (exec .char01 State.reset)).stream = stream "SSSSSMMM" ∧
      (after (exec .char10 State.reset)).stream = stream "SMSSSSMM" ∧
      (after (exec .char1E State.reset)).stream = stream "SMMMMSMM" := by decide +kernel

/-- The frames of spec/opcode_table.json for all rows, by V3.1's order of the codes. -/
theorem test_frames_follow_the_bits :
    expand codeSpace 0x02 = stream "SSSSMSMM" ∧ expand codeSpace 0x0E = stream "SSMMMSMM" ∧ expand codeSpace 0x15 = stream "SMSMSMMM" ∧
      expand codeSpace 0x1C = stream "SMMMSSMM" := by decide +kernel

/-- R5, R73: another code space, by hand: three data bits, one stop symbol. -/
theorem test_frame_of_another_code_space :
    let k : Config.CodeSpace :=
      { codeW := 3, romLen := 8, codeLtrs := 7, codeFigs := 3, frameLen := 5, romLen_le := by decide,
        codeLtrs_ne := by decide, codeFigs_ne := by decide, sentinels_ne := by decide, frame_fits := by decide }
    expand k 0b011#3 = stream "SSMMM" ∧ sentinel k true = 0b011#3 := by decide +kernel

/-- WF3 of R52: a table with a character at a sentinel's index is refused. -/
theorem test_romCheck_refuses_a_character_at_a_sentinel :
    Config.romCheck codeSpace (ltrsRom.set 0x1B 0x61) figsRom = false ∧
      Config.romCheck codeSpace (ltrsRom.set 0x1F 0x61) figsRom = false ∧
      Config.romCheck codeSpace (ltrsRom ++ [0x61]) figsRom = false := by decide +kernel

/-- V4.5: the cells stay, the cursor goes to zero. -/
theorem test_q_reset :
    let t := qReset (onAir 7 900 0)
    t.wr = 0 ∧ t.rd = 0 ∧ t.last = 0 ∧ t.sym.read 3 = some symSpace := by decide +kernel

/-- V4.10, V4.12, V4.13: small capacities. -/
theorem test_render_truncates :
    (render (small 16 (by decide +kernel) (by decide +kernel)) (txt "RY") State.reset).stream = stream "MMMSMMMMMMMSSMSM" ∧
      (render (small 3 (by decide +kernel) (by decide +kernel)) (txt "A") State.reset).stream = stream "MMM" ∧
      (render (small 1 (by decide +kernel) (by decide +kernel)) (txt "A") State.reset).stream = stream "M" := by decide +kernel

/-- P4: the codec runs on past the overflow. -/
theorem test_shift_state_past_overflow :
    (render (small 16 (by decide +kernel) (by decide +kernel)) (txt "R1") State.reset).figs = true ∧
      (render (small 16 (by decide +kernel) (by decide +kernel)) (txt "R1A") State.reset).figs = false := by decide +kernel

/-! ## The host operations -/

/-- V5.3, V5.4, V5.9: `SETMSG` from the state of another message. -/
theorem test_setmsg_streams :
    (after (exec (.setmsg (txt "A1")) (onAir 5 7 9))).stream = stream "MMMSMMMMMMMSMMSSSMMSMMSMMMMSMMMSMMM" ∧
      (after (exec (.setmsg (txt "1A")) (onAir 5 7 9))).stream =
        stream "MMMSMMMMMMMSMMSMMMMSMMMSMMMSMMMMMMMSMMSSSMM" ∧
      (after (exec (.setmsg (txt "R1" ++ [0x0D, 0x0A] ++ txt "Y")) (onAir 5 7 9))).stream =
        stream "MMMSMMMMMMMSSMSMSMMSMMSMMMMSMMMSMMMSSSSMSMMSSMSSSMMSMMMMMMMSMSMSMMM" := by decide +kernel

/-- V5.6, S4: an unsupported text is not empty, and the previous shift state does not matter. -/
theorem test_setmsg_registers :
    let t := after (exec (.setmsg (txt "a")) { onAir 5 7 9 with figs := true })
    t.stream = stream "MMMSMMMMMMM" ∧ t.wr = 11 ∧ t.rd = 0 ∧ t.last = 0 ∧ t.figs = false ∧ t.base = 14080000 := by
  decide +kernel

/-- V5.8, P3: `STOP` empties the stream and issues nothing. -/
theorem test_stop :
    let t := after (exec .stop { onAir 5 7 9 with figs := true })
    t.wr = 0 ∧ t.rd = 0 ∧ t.last = 0 ∧ t.figs = false ∧ t.vfo = [] := by decide +kernel

/-- V7.8: `SETFREQ` while Running. -/
theorem test_setfreq : after (exec (.setfreq 7040000) (onAir 7 5 6)) = { onAir 7 5 6 with base := 7040000 } := by
  decide +kernel

/-- V7.10: `delay_q` shows the stored delay. -/
theorem test_setdelay : (after (exec (.setdelay 30) State.reset)).delayQ = 30 := by decide +kernel

/-- V7.12. -/
theorem test_reserved : after (exec (.reserved 0xFF) (onAir 7 5 6)) = onAir 7 5 6 := by decide +kernel

/-- V6.2, V6.3: 21 does not fire, 22 does. -/
theorem test_poll_boundary :
    after (exec .poll (onAir 0 0 21)) = onAir 0 0 21 ∧
      after (exec .poll (onAir 0 0 22)) = { onAir 1 22 22 with
        vfo := [.setOutputEnabled true, .setFrequency 14080000] } := by decide +kernel

/-- V6.6, V6.11: the wrap at the stream's size with a late sample; a clock that has wrapped. -/
theorem test_poll_wraps :
    after (exec .poll (onAir 18 5000 5030)) = { onAir 0 5030 5030 with
        vfo := [.setOutputEnabled true, .setFrequency 14080000] } ∧
      after (exec .poll (onAir 2 4294967290 16)) = { onAir 3 16 16 with
        vfo := [.setOutputEnabled true, .setFrequency 14080000] } := by decide +kernel

/-- V6.12: a stream of one symbol. -/
theorem test_poll_of_one_symbol :
    let s : State := { holding [symMark] with nowMs := 22 }
    (after (exec .poll s)).rd = 0 ∧ (after (exec .poll s)).last = 22 := by decide +kernel

/-! ## The symbols -/

/-- V7.3: Silence, one command. -/
theorem test_sil : (after (exec .sil (onAir 0 0 0))).vfo = [.setOutputEnabled false] := by decide +kernel

/-- V7.1, V7.7. -/
theorem test_mark :
    (after (exec .mark (onAir 0 0 0))).vfo = [.setOutputEnabled true, .setFrequency 14080000] ∧
      (after (exec .mark State.reset)).vfo = [.setOutputEnabled true, .setFrequency 0] := by decide +kernel

/-- V7.2, V7.5, V7.6. -/
theorem test_space :
    (after (exec .space (onAir 0 0 0))).vfo = [.setOutputEnabled true, .setFrequency 14079830] ∧
      (after (exec .space { State.reset with base := 170 })).vfo = [.setOutputEnabled true, .setFrequency 0] ∧
      (after (exec .space { State.reset with base := 100 })).vfo =
        [.setOutputEnabled true, .setFrequency 4294967226] := by decide +kernel

/-- V7.4: the dispatch issues nothing; a firing poll on it still advances. -/
theorem test_symInvalid :
    after (exec .symInvalid (onAir 0 0 0)) = onAir 0 0 0 ∧
      after (exec .poll { holding [3, symMark] with nowMs := 30 }) =
        { holding [3, symMark] with nowMs := 30, last := 30, rd := 1 } := by decide +kernel

/-- R35: the VFO's own state, as its sink keeps it. -/
theorem test_vfo_view :
    Vfo.enabled [] = none ∧ Vfo.enabled [.setOutputEnabled true, .setFrequency 5] = some true ∧
      Vfo.frequency [.setOutputEnabled true, .setFrequency 5, .setOutputEnabled false] = some 5 := by decide +kernel

/-! ## Steps, reset and the assembler -/

/-- R84, P1: a step takes the bytes of one command and leaves the next. -/
theorem test_step_takes_one_command :
    let t := after (step { State.reset with port := bytes [0x01, 0x00, 0xD8, 0xD6, 0x00, 0x04] })
    t.base = 14080000 ∧ t.port = bytes [0x04] ∧ t.dec = [] := by decide +kernel

/-- V8.7: the decoder keeps an incomplete command, which has no effect. -/
theorem test_step_waits :
    after (step { State.reset with port := bytes [0x03, 0x1E, 0x00] }) = { State.reset with dec := [0x03, 0x1E, 0x00] } := by
  decide +kernel

/-- V9.1: reset while Running; the VFO record stays. -/
theorem test_step_reset :
    let s : State := { onAir 9 777 800 with
      figs := true, delay := 30, vfo := [.setOutputEnabled true], port := [.reset, .byte 0x04] }
    after (step s) = { State.reset with
      nowMs := 800, vfo := [.setOutputEnabled true], port := [.byte 0x04], resets := 1 } := by decide +kernel

/-- V9.2: a reset forgets the bytes received; the next byte is an opcode byte. -/
theorem test_reset_forgets_a_partial_command :
    let s : State := { State.reset with port := bytes [0x01, 0x00, 0xD8] ++ .reset :: bytes [0xD6, 0x00] }
    (after (step s)).dec = [] ∧ (after (step s)).port = bytes [0xD6, 0x00] ∧
      (after (step (after (step s)))).port = bytes [0x00] ∧ (after (step (after (step s)))).base = 0 := by decide +kernel

/-- R223: a poll abandoned after one of its two commands leaves the reset state and that command. -/
theorem test_reset_during_a_poll :
    after (step { onAir 0 0 22 with port := [.byte 0x04, .resetDuring 1, .byte 0x04] }) =
      { State.reset with nowMs := 22, port := [.byte 0x04], vfo := [.setOutputEnabled true], resets := 1 } := by
  decide +kernel

/-- Log 4: the next step after reset runs the placed word. -/
theorem test_placed_commands_run :
    (after (step (State.reset.withFetchWord 40 0xD6D80001))).base = 14080000 ∧
      (after (step (State.reset.withFetchWord 40 0x1E03))).delay = 30 ∧
      (after (step (State.reset.withFetchWord 16 0x02))).idle = true := by decide +kernel

/-- Log 21: a placed symbol is keyed, a placed code is rendered. -/
theorem test_placed_symbols_and_codes_run :
    (after (step (State.reset.withFetchWord 2 0x2))).vfo = [.setOutputEnabled true, .setFrequency 4294967126] ∧
      (after (step (State.reset.withFetchWord 5 0x18))).stream = stream "MMMSMMMMMMMSMMSSSMM" := by decide +kernel

/-- R85, P1, P3. -/
theorem test_assemble_commands :
    assembleLine "SETFREQ 14080000                ; 01 00 D8 D6 00".toList = some (bytes [0x01, 0x00, 0xD8, 0xD6, 0x00]) ∧
      assembleLine "POLL @ 10".toList = some [.clock 10, .byte 0x04] ∧ assembleLine "STOP".toList = some (bytes [0x02, 0x00]) ∧
      assembleLine ".byte 0xFF".toList = some [.byte 0xFF] ∧ assembleLine "NOP".toList = none := by decide +kernel

/-- R85, V5.9, V5.7: escapes. -/
theorem test_assemble_strings :
    assembleLine "SETMSG \"R1\\r\\nY\"".toList = some (bytes [0x02, 0x52, 0x31, 0x0D, 0x0A, 0x59, 0x00]) ∧
      assembleLine "SETMSG \"A\\x80B\"".toList = some (bytes [0x02, 0x41, 0x80, 0x42, 0x00]) ∧
      assembleLine "SETDELAY 0x01020304".toList = some (bytes [0x03, 0x04, 0x03, 0x02, 0x01]) := by decide +kernel

/-! ## Witnesses -/

/-- The vectors' start satisfies the invariant, with any read position inside the stream. -/
theorem onAir_inv (rd : Nat) (last now : Word) (h : rd < 19) : (onAir rd last now).Inv where
  memory := by change (onAir 0 0 0).sym.wf; decide +kernel
  within := by change ∀ c ∈ (onAir 0 0 0).sym, c.1 < hw.capacity; decide +kernel
  wr_le := by change (onAir 0 0 0).wr.toNat ≤ hw.capacity; decide +kernel
  rd_lt := by
    intro _
    change (BitVec.ofNat 11 rd).toNat < 19
    simp only [BitVec.toNat_ofNat]; omega
  rd_zero := fun h => absurd h (by change ¬(onAir 0 0 0).wr.toNat = 0; decide +kernel)
  cells := by
    change ∀ a < (onAir 0 0 0).wr.toNat,
      (onAir 0 0 0).sym.read a = some symMark ∨ (onAir 0 0 0).sym.read a = some symSpace
    decide +kernel

/-- Read positions 2, 3 and 18 are inside the stream. -/
theorem onAir_inv_mem {rd : Nat} (last now : Word) (h : rd ∈ [2, 3, 18]) : (onAir rd last now).Inv := by
  refine onAir_inv rd last now ?_
  simp only [List.mem_cons, List.not_mem_nil, or_false] at h; omega

/-- A command received in two parts, with clock changes before, between and after its bytes. -/
theorem test_witness_StepRunsTheReceivedCommand :
    let evs := [.clock 5, .byte 0xD8, .clock 6, .clock 7, .byte 0xD6, .byte 0x00]
    let es := [.clock 8, .byte 0x04]
    let s : State := { onAir 0 0 0 with dec := [0x01, 0x00], port := evs ++ es }
    s.port = evs ++ es ∧ (∀ e ∈ evs, e.isReset = false) ∧ (∀ t, evs.getLast? ≠ some (.clock t)) ∧
      decode (s.dec ++ eventBytes evs) = .instr (.setfreq 14080000) [] ∧ ∀ k, es.head? ≠ some (.resetDuring k) :=
  ⟨rfl, by decide +kernel, fun _ h => (by cases h), by decide +kernel, fun _ h => (by cases h)⟩

theorem test_witness_StepPollsAtTheClockSample :
    let s : State := { onAir 3 1000 1000 with port := [.clock 1022, .byte 0x04] }
    s.dec = [] ∧ s.port = pollEvents 1022 ++ [] ∧ ∀ k, ([] : List PinEvent).head? ≠ some (.resetDuring k) :=
  ⟨rfl, rfl, fun _ h => by cases h⟩

theorem test_witness_StepWaitsOnAnIncompleteCommand :
    let s : State := { State.reset with dec := [0x03], port := [.byte 0x1E, .clock 9, .byte 0x00, .clock 10] }
    (∀ e ∈ s.port, e.isReset = false) ∧ decode (s.dec ++ eventBytes s.port) = .refused (.incomplete 0x03) := by
  decide +kernel

/-- Both kinds of reset, in the middle of a command after a clock change and at the start of one. -/
theorem test_witness_StepTakesReset :
    (let evs := [.byte 0x00, .clock 3, .byte 0xD8]
     let s : State := { onAir 9 7 8 with dec := [0x01], port := evs ++ .reset :: bytes [0xD6] }
     s.port = evs ++ .reset :: bytes [0xD6] ∧ (∀ v ∈ evs, v.isReset = false) ∧ PinEvent.reset.isReset = true ∧
       decode (s.dec ++ eventBytes evs) = .refused (.incomplete 0x01)) ∧
      (let s : State := { onAir 9 7 8 with port := [.resetDuring 1] }
       s.port = bytes [] ++ .resetDuring 1 :: [] ∧ (PinEvent.resetDuring 1).isReset = true ∧
         decode (s.dec ++ eventBytes (bytes [])) = .refused .noOpcode) := by decide +kernel

/-- A firing poll abandoned before its first command, between its two, and after both. -/
theorem test_witness_ResetAbandonsAnOperation :
    let evs := [.clock 22, .byte 0x04]
    (∀ k ∈ [0, 1, 2],
      let s : State := { onAir 0 0 0 with port := evs ++ [.resetDuring k] }
      s.port = evs ++ .resetDuring k :: [] ∧ (∀ e ∈ evs, e.isReset = false) ∧
        decode (s.dec ++ eventBytes evs) = .instr .poll []) ∧
      ∀ t, evs.getLast? ≠ some (.clock t) :=
  ⟨by decide +kernel, fun _ h => (by cases h)⟩

/-- A step that fires, wraps and stays in the invariant's domain. -/
theorem test_witness_InvariantKeptByEveryStep :
    (onAir 18 0 22).Inv ∧ ∃ t, step { onAir 18 0 22 with port := bytes [0x04] } = .next t :=
  ⟨onAir_inv 18 0 22 (by decide +kernel), exists_next (by decide +kernel)⟩

theorem test_witness_DecoderHoldsOnlyABeginning :
    ∃ t, step { State.reset with port := bytes [0x02, 0x41] } = .next t := exists_next (by decide +kernel)

/-- The clock may stand still, and `LAST` may be now. -/
theorem test_witness_ClockPremiseKeptByEveryStep :
    let s : State := { onAir 0 5 5 with port := [.clock 5, .byte 0x04, .clock 30] }
    s.ClockMonotone ∧ ∃ t, step s = .next t :=
  ⟨⟨by decide +kernel, by decide +kernel, by decide +kernel, trivial⟩, exists_next (by decide +kernel)⟩

theorem test_witness_SetmsgRendersTheText : txt "1 2" ≠ [] ∧ txt "a" ≠ [] ∧ List.replicate 300 0x52#8 ≠ [] := by
  decide +kernel

theorem test_witness_StreamSizeOfAnyConfiguration : txt "RY" ≠ [] := by decide +kernel

theorem test_witness_RenderOpensWithPreambleAndLetters : txt "A" ≠ [] := by decide +kernel

/-- Idle; and 21 ms after `LAST`. -/
theorem test_witness_PollEarlyOrIdleDoesNothing :
    State.reset.wr = 0 ∧ (onAir 0 1000 1021).wr ≠ 0 ∧ (onAir 0 1000 1021).nowMs - (onAir 0 1000 1021).last < 22#32 := by
  decide +kernel

/-- 22 ms after `LAST`, in the middle of the stream and at its last symbol. -/
theorem test_witness_PollFiresOneSymbol :
    (∀ rd ∈ [2, 3, 18], (onAir rd 1000 1022).Inv) ∧
      ∀ rd ∈ [2, 3, 18], (onAir rd 1000 1022).wr ≠ 0 ∧ 22#32 ≤ (onAir rd 1000 1022).nowMs - (onAir rd 1000 1022).last :=
  ⟨fun _ h => onAir_inv_mem _ _ h, by decide +kernel⟩

/-- Samples at `LAST`, 21 and 22 ms later. -/
theorem test_witness_PollFiresByPlainTime :
    (onAir 0 1000 1000).wr ≠ 0 ∧ (onAir 0 1000 1000).last.toNat ≤ (onAir 0 1000 1000).nowMs.toNat ∧
      (onAir 0 1000 1021).last.toNat ≤ (onAir 0 1000 1021).nowMs.toNat ∧
      (onAir 0 1000 1022).last.toNat ≤ (onAir 0 1000 1022).nowMs.toNat := by decide +kernel

theorem test_witness_SilDisablesTheOutput : (onAir 0 0 0).Inv ∧ 18 < (onAir 0 0 0).wr.toNat :=
  ⟨onAir_inv 0 0 0 (by decide +kernel), by decide +kernel⟩

/-- `BASE` at 170 and just below. -/
theorem test_witness_SpaceKeysTheShiftedBase :
    ∀ s ∈ [{ State.reset with base := 169 }, { State.reset with base := 170 }],
      (after (exec .space s)).vfo = [.setOutputEnabled true, .setFrequency (s.base - 170)] := by decide +kernel

/-- An invalid cell at `RD` in a running machine. -/
theorem test_witness_InvalidSymbolIssuesNothing :
    let s : State := { holding [symMark, 3] with rd := 1, nowMs := 22 }
    s.wr ≠ 0 ∧ 22#32 ≤ s.nowMs - s.last ∧ s.readSym s.rd.toNat = 3#2 := by decide +kernel

/-- `f` at its bound 170, on a Mark and on a Space. -/
theorem test_witness_SetfreqTakesEffectAtTheNextSymbol :
    (∀ rd ∈ [2, 3, 18], (onAir rd 0 22).Inv) ∧
      ∀ rd ∈ [2, 3, 18], 170 ≤ (170#32).toNat ∧ (onAir rd 0 22).wr ≠ 0 ∧
        22#32 ≤ (onAir rd 0 22).nowMs - (onAir rd 0 22).last :=
  ⟨fun _ h => onAir_inv_mem _ _ h, by decide +kernel⟩

theorem test_witness_SetfreqTakesEffectAtTheNextSymbol_cells :
    (onAir 2 0 22).readSym 2 = symMark ∧ (onAir 3 0 22).readSym 3 = symSpace := by decide +kernel

/-- A step that issues commands. -/
theorem test_witness_VfoIsOnlyASink :
    (∃ t, step { onAir 0 0 22 with port := bytes [0x04] } = .next t) ∧
      (after (step { onAir 0 0 22 with port := bytes [0x04] })).vfo.length = 2 :=
  ⟨exists_next (by decide +kernel), by decide +kernel⟩

/-- The empty queue, the last place where a frame fits, a frame cut after one symbol, the full queue. -/
theorem test_witness_CodesPushTheirFrames :
    (Instr.char1E, stream "SMMMMSMM") ∈ frameRows ∧
      ∀ n ∈ [0, 2040, 2047, 2048], ({ State.reset with wr := BitVec.ofNat 12 n } : State).wr.toNat ≤ 2048 := by
  decide +kernel

/-- The last free cell and the full queue. -/
theorem test_witness_PushStoresOrDrops :
    ∀ n ∈ [0, 2047, 2048], ({ State.reset with wr := BitVec.ofNat 12 n } : State).wr.toNat ≤ hw.capacity := by decide +kernel

/-- A character found at the last character index, and one found nowhere. -/
theorem test_witness_LookupFindsTheOnlyIndex :
    (ltrsRom = romPair.ltrs ∨ ltrsRom = romPair.figs) ∧ lookup codeSpace romPair.ltrs 0x4B = some 0x1E ∧
      lookup codeSpace romPair.ltrs 0x31 = none := by decide +kernel

/-- A register written by its operation, for each clause that has one. -/
theorem test_witness_RegistersAreWrittenOnlyByTheirOperations :
    (Instr.isCommand (.setfreq 5) ∧ (after (exec (.setfreq 5) State.reset)).base ≠ State.reset.base) ∧
      (Instr.isCommand (.setdelay 5) ∧ (after (exec (.setdelay 5) State.reset)).delay ≠ State.reset.delay) ∧
      (Instr.isCommand (.setmsg [0x31]) ∧ (after (exec (.setmsg [0x31]) State.reset)).figs ≠ State.reset.figs) ∧
      (Instr.isCommand .stop ∧ (after (exec .stop (onAir 3 9 9))).rd ≠ (onAir 3 9 9).rd) ∧
      (Instr.isCommand .poll ∧ (after (exec .poll (onAir 0 0 22))).vfo ≠ (onAir 0 0 22).vfo) := by decide +kernel

/-- Idle to Running and back. -/
theorem test_witness_IdleChangesOnlyBySetmsg :
    (Instr.isCommand (.setmsg [0x61]) ∧ State.reset.idle ∧ ¬(after (exec (.setmsg [0x61]) State.reset)).idle) ∧
      (Instr.isCommand .stop ∧ ¬(onAir 0 0 0).idle ∧ (after (exec .stop (onAir 0 0 0))).idle) := by decide +kernel

/-- V6.10: the text is not empty; samples 21 and 22 fall to either side of the clause. -/
theorem test_witness_FirstPollAfterSetmsg : [0x41#8] ≠ [] ∧ ¬22 ≤ (21#32).toNat ∧ 22 ≤ (22#32).toNat := by decide +kernel

/-- Three polls round the end of the stream, the first exactly on time. -/
theorem test_witness_CyclicReplay :
    let ts := [1022#32, 1044#32, 1100#32]
    let s : State := { onAir 17 1000 1000 with port := ts.flatMap pollEvents }
    (onAir 17 1000 1000).Inv ∧ s.wr ≠ 0 ∧ s.dec = [] ∧ s.port = ts.flatMap pollEvents ∧ spaced s.last ts :=
  ⟨onAir_inv 17 _ _ (by decide +kernel), by decide +kernel, rfl, rfl, by decide +kernel, by decide +kernel, by decide +kernel, trivial⟩

/-- A firing poll, whole and cut short. -/
theorem test_witness_CommandsComeAtLeast22MsAfterLast :
    ∀ es ∈ [bytes [0x04], [.byte 0x04, .resetDuring 1]],
      let s : State := { onAir 0 1000 1022 with port := es }
      s.last.toNat ≤ s.nowMs.toNat ∧ (after (step s)).vfo ≠ s.vfo := by decide +kernel

theorem test_witness_CommandsComeAtLeast22MsAfterLast_clock :
    ({ onAir 0 1000 1022 with port := [.byte 0x04, .resetDuring 1] } : State).ClockMonotone := ⟨by decide +kernel, trivial⟩

/-- Two firings on time with a poll too early between them. -/
theorem test_witness_FiringsOfOneMessageAreAtLeast22MsApart :
    let s : State := { onAir 0 1000 1022 with port := [.byte 0x04, .byte 0x04, .clock 1044, .byte 0x04] }
    let t := after (step s)
    let u := after (step t)
    let v := after (step u)
    s.ClockMonotone ∧ step s = .next t ∧ t.vfo ≠ s.vfo ∧ t.resets = s.resets ∧ t.undisturbed 1 ∧ t.run 1 = .next u ∧
      step u = .next v ∧ v.vfo ≠ u.vfo := by
  refine ⟨⟨by decide +kernel, by decide +kernel, trivial⟩, next_after (by decide +kernel), by decide +kernel,
    by decide +kernel, ⟨by decide +kernel, fun _ _ => trivial⟩, ?_, next_after (by decide +kernel), by decide +kernel⟩
  rw [State.run, next_after (o := step _) (by decide +kernel)]
  rfl

/-- P2: with a `SETMSG` between them two firings come 8 ms apart, and the state is disturbed. -/
theorem test_setmsg_between_firings :
    let s : State := { onAir 3 150 172 with
      port := bytes [0x04, 0x02, 0x31, 0x41, 0x00] ++ [.clock 180, .byte 0x04] }
    let t := after (step s)
    let v := after (step (after (step t)))
    t.last = 172 ∧ t.restarts = true ∧ v.last = 180 ∧ v.vfo.length = 4 := by decide +kernel

/-- R81, R84, R210: clock changes between the bytes of a command do not disturb it. -/
theorem test_clock_between_bytes :
    let s : State := { State.reset with
      port := [.byte 0x03, .clock 1, .byte 0x1E, .byte 0, .clock 2, .byte 0, .byte 0, .clock 3] }
    after (step s) = { State.reset with delay := 30, nowMs := 2, port := [.clock 3] } := by decide +kernel

theorem test_witness_OutputIsNeverDisabled :
    (onAir 3 0 22).Inv ∧ (after (step { onAir 3 0 22 with port := bytes [0x04] })).vfo.length = 2 :=
  ⟨onAir_inv 3 _ _ (by decide +kernel), by decide +kernel⟩

theorem test_witness_DelayInfluencesNothing :
    ∃ t, ({ onAir 0 0 22 with port := bytes [0x04, 0x04] } : State).run 2 = .next t :=
  exists_next (by decide +kernel)

theorem test_witness_ShiftStateIsUnobservable :
    ∃ t, ({ onAir 0 0 22 with figs := true, port := bytes [0x02, 0x00, 0x04] } : State).run 2 = .next t :=
  exists_next (by decide +kernel)

/-- One instruction of each encoding space. -/
theorem test_witness_DecodeEncode :
    ∀ i ∈ [Instr.setfreq 0x80000000, .setmsg [0xFF], .stop, .reserved 0x05, .symInvalid, .codeFigs, .char1E],
      i.wellFormed = true := by decide +kernel

theorem test_witness_CommandsAreReadOneByOne :
    Instr.isCommand (.setmsg [0x04]) ∧ Instr.wellFormed (.setmsg [0x04]) := by decide +kernel

theorem test_witness_DecodedCommandsReencode :
    decode [0x02, 0x04, 0x01, 0x00, 0x04] = .instr (.setmsg [0x04, 0x01]) [0x04] := by decide +kernel

/-- No byte, and all bytes but the last. -/
theorem test_witness_BeginningsAreIncomplete :
    ∀ k ∈ [0, 4], Instr.isCommand (.setfreq 1) ∧ Instr.wellFormed (.setfreq 1) ∧ k < (encodeBytes (.setfreq 1)).length := by
  decide +kernel

end Sys2Proof.Tests
end

section
/-! PROOFS. The scope family: the parameters of spec/00_scope.md rule R5. -/

namespace Sys2Proof.Machine

/-- Settles O51: each parameter is a field of `hw`, five of them in its `codeSpace`, so every value is read off the configuration. -/
theorem referenceParameters : Obligations.ReferenceParameters :=
  ⟨rfl, rfl, rfl, rfl, rfl, rfl, rfl, rfl, rfl⟩

end Sys2Proof.Machine
end

section
/-! PROOFS. The codec family: the lookups of a well-formed ROM pair, `CLASSIFY`, `SHIFT_MUX` and `ENCODE_CHAR`
(spec/40_codec.md rules R100 to R108). -/

namespace Sys2Proof.Machine

/-- The scan of R100 from index `n` answers `n + m` only where the `m`-th word is the character, which is not `ROM_NONE`. -/
theorem lookupFrom_eq_some {k : Config.CodeSpace} {ch : Byte} {n : Nat} {t : List Byte} {i : BitVec k.codeW}
    (h : lookupFrom k ch n t = some i) :
    ∃ m < t.length, Config.romRead t m = ch ∧ ch ≠ Config.romNone ∧ i = BitVec.ofNat k.codeW (n + m) := by
  induction t generalizing n with
  | nil => cases h
  | cons w words ih =>
    rw [lookupFrom] at h
    split at h
    case isTrue hw =>
      obtain ⟨hne, rfl⟩ := hw
      exact ⟨0, Nat.succ_pos _, rfl, hne, (Option.some.inj h).symm⟩
    case isFalse =>
      obtain ⟨m, hm, hch, hne, hi⟩ := ih h
      exact ⟨m + 1, Nat.succ_lt_succ hm, hch, hne, by rw [hi, Nat.add_right_comm, Nat.add_assoc]⟩

/-- R100, R51: in a table of `ROM_LEN` words `LOOKUP` answers an index of the table whose word is the character. -/
theorem lookup_eq_some {k : Config.CodeSpace} {t : List Byte} {ch : Byte} {i : BitVec k.codeW}
    (hlen : t.length = k.romLen) (h : lookup k t ch = some i) :
    i.toNat < k.romLen ∧ Config.romRead t i.toNat = ch ∧ ch ≠ Config.romNone := by
  obtain ⟨m, hm, hch, hne, rfl⟩ := lookupFrom_eq_some h
  have hcode : m < 2 ^ k.codeW := Nat.lt_of_lt_of_le (hlen ▸ hm) k.romLen_le
  rw [Nat.zero_add, BitVec.toNat_ofNat, Nat.mod_eq_of_lt hcode]
  exact ⟨hlen ▸ hm, hch, hne⟩

/-- WF4 and WF5 as propositions: a character that `t` holds at `i` and `u` at `j` has one index. -/
theorem sameIndex_iff {k : Config.CodeSpace} {t u : List Byte} :
    Config.sameIndex k t u = true ↔
      ∀ i < k.romLen, Config.romRead t i ≠ Config.romNone →
        ∀ j < k.romLen, Config.romRead u j = Config.romRead t i → i = j := by
  simp only [Config.sameIndex, List.all_eq_true, List.mem_range, Bool.or_eq_true, beq_iff_eq, bne_iff_ne,
    Decidable.or_iff_not_imp_left, Decidable.not_not, ne_eq]

/-- WF1 and WF5 of a ROM pair (R52). -/
theorem romPair_wf1_wf5 {k : Config.CodeSpace} (r : Config.RomPair k) :
    r.ltrs.length = k.romLen ∧ r.figs.length = k.romLen ∧ Config.sameIndex k r.ltrs r.figs = true := by
  have h := r.wf
  simp only [Config.romCheck, Bool.and_eq_true, beq_iff_eq] at h
  obtain ⟨⟨⟨⟨⟨⟨hltrs, hfigs⟩, _⟩, _⟩, _⟩, _⟩, hboth⟩ := h
  exact ⟨hltrs, hfigs, hboth⟩

/-- R101's corner case: a character found in both tables is found at one index (WF5). -/
theorem lookup_index_unique {k : Config.CodeSpace} (r : Config.RomPair k) {ch : Byte} {i j : BitVec k.codeW}
    (hl : lookup k r.ltrs ch = some i) (hf : lookup k r.figs ch = some j) : i = j := by
  obtain ⟨hltrs, hfigs, hboth⟩ := romPair_wf1_wf5 r
  obtain ⟨hi, hri, hne⟩ := lookup_eq_some hltrs hl
  obtain ⟨hj, hrj, _⟩ := lookup_eq_some hfigs hf
  exact BitVec.eq_of_toNat_eq (sameIndex_iff.1 hboth _ hi (hri ▸ hne) _ hj (hrj.trans hri.symm))

section
variable {k : Config.CodeSpace} {r : Config.RomPair k} {ch : Byte} {i j : BitVec k.codeW}

theorem classify_of_found_nowhere (hl : lookup k r.ltrs ch = none) (hf : lookup k r.figs ch = none) :
    classify r ch = .unsupported := by
  rw [classify, hl, hf]

theorem classify_of_found_in_both (hl : lookup k r.ltrs ch = some i) (hf : lookup k r.figs ch = some i) :
    classify r ch = .shared i := by
  rw [classify, hl, hf]
  exact if_pos rfl

theorem classify_of_found_in_ltrs (hl : lookup k r.ltrs ch = some i) (hf : lookup k r.figs ch = none) :
    classify r ch = .letter i := by
  rw [classify, hl, hf]

theorem classify_of_found_in_figs (hl : lookup k r.ltrs ch = none) (hf : lookup k r.figs ch = some j) :
    classify r ch = .figure j := by
  rw [classify, hl, hf]

end

/-- Settles O33: WF5 makes two found indices equal, and then the outcomes of the two lookups fix the class. -/
theorem classifyHasFourResults : Obligations.ClassifyHasFourResults := by
  intro k r ch
  cases hl : lookup k r.ltrs ch with
  | none =>
    cases hf : lookup k r.figs ch with
    | none => simp [classify_of_found_nowhere hl hf]
    | some j => simp [classify_of_found_in_figs hl hf]
  | some i =>
    cases hf : lookup k r.figs ch with
    | none => simp [classify_of_found_in_ltrs hl hf]
    | some j =>
      obtain rfl := lookup_index_unique r hl hf
      simp [classify_of_found_in_both hl hf]

/-- R103: in the wanted mode the multiplexer returns nothing. -/
@[simp] theorem shiftMux_same (k : Config.CodeSpace) (figs : Bool) : shiftMux k figs figs = ([], figs) :=
  if_pos rfl

@[simp] theorem shiftMux_to_letters (k : Config.CodeSpace) : shiftMux k false true = ([k.codeLtrs], false) := rfl

@[simp] theorem shiftMux_to_figures (k : Config.CodeSpace) : shiftMux k true false = ([k.codeFigs], true) := rfl

/-- Pushing the frames, stored or dropped, never touches the flag that the codec left (R103, R124). -/
theorem emitChar_figs (p : Config.Params) (ch : Byte) (s : State) :
    (emitChar p ch s).figs = (encodeChar p.rom ch s.figs).2 := by
  rw [emitChar_eq, State.setFigs_figs]

/-- Settles O34: the multiplexer's three cases, at the reference sentinels too, and the flag after `EMIT_CHAR`. -/
theorem shiftMuxSelectsTheMode : Obligations.ShiftMuxSelectsTheMode :=
  ⟨shiftMux_same, fun k => ⟨shiftMux_to_letters k, shiftMux_to_figures k⟩, shiftMux_to_letters codeSpace,
    shiftMux_to_figures codeSpace, emitChar_figs⟩

section
variable {k : Config.CodeSpace} {r : Config.RomPair k} {ch : Byte}

theorem encodeChar_unsupported (h : classify r ch = .unsupported) (figs : Bool) :
    encodeChar r ch figs = ([], figs) := by
  rw [encodeChar, h]

theorem encodeChar_shared {i : BitVec k.codeW} (h : classify r ch = .shared i) (figs : Bool) :
    encodeChar r ch figs = ([i], figs) := by
  rw [encodeChar, h]

theorem encodeChar_letter {i : BitVec k.codeW} (h : classify r ch = .letter i) (figs : Bool) :
    encodeChar r ch figs = ((if figs then [k.codeLtrs] else []) ++ [i], false) := by
  cases figs <;> simp [encodeChar, h]

theorem encodeChar_figure {j : BitVec k.codeW} (h : classify r ch = .figure j) (figs : Bool) :
    encodeChar r ch figs = ((if figs then [] else [k.codeFigs]) ++ [j], true) := by
  cases figs <;> simp [encodeChar, h]

end

/-- Settles O35: the outcomes of the two lookups give the class, and the class gives the codes and the mode. -/
theorem encodeCharByClass : Obligations.EncodeCharByClass := by
  refine ⟨⟨rfl, rfl⟩, fun k r ch figs => ?_⟩
  split
  case h_1 hl hf => exact encodeChar_unsupported (classify_of_found_nowhere hl hf) figs
  case h_2 hl hf =>
    obtain rfl := lookup_index_unique r hl hf
    exact ⟨rfl, encodeChar_shared (classify_of_found_in_both hl hf) figs⟩
  case h_3 hl hf => exact encodeChar_letter (classify_of_found_in_ltrs hl hf) figs
  case h_4 hl hf => exact encodeChar_figure (classify_of_found_in_figs hl hf) figs

end Sys2Proof.Machine
end

section
/-! PROOFS. The queue family: one push and the frame of one code (spec/41_queue_render.md rules R120 and R122). -/

namespace Sys2Proof.Machine

/-- R120: below capacity a push writes the cell at `WR` and counts it (at capacity: `qPush_full`). -/
theorem qPush_room (p : Config.Params) (v : Sym) (s : State) (h : s.wr.toNat < p.capacity) :
    qPush p v s = (s.setSym (s.sym.write s.wr.toNat v)).setWr (s.wr + 1#12) :=
  if_pos h

/-- Settles O31: with room, the one write at `WR` and the count that cannot wrap; without, the identity. -/
theorem pushStoresOrDrops : Obligations.PushStoresOrDrops := by
  intro p v s hle
  split
  case isTrue hroom =>
    exact ⟨_, qPush_room p v s hroom, rfl, wr_succ_toNat p s.wr hroom, fun a => Memory.read_write s.sym s.wr.toNat a v⟩
  case isFalse hfull => exact qPush_full p v s (Nat.le_antisymm hle (Nat.le_of_not_lt hfull))

/-- R122: with the reference values the data symbols are the five bits of the code from bit 4 down. -/
theorem dataSyms_codeSpace (c : Code) :
    dataSyms codeSpace c =
      [bitSym (c.getLsbD 4), bitSym (c.getLsbD 3), bitSym (c.getLsbD 2), bitSym (c.getLsbD 1), bitSym (c.getLsbD 0)] :=
  rfl

/-- Settles O52: the start symbol, the five data symbols, and the two stop symbols that `FRAME_LEN` leaves. -/
theorem expandGivesTheFrame : Obligations.ExpandGivesTheFrame :=
  ⟨rfl, rfl, fun c => congrArg (symSpace :: · ++ [symMark, symMark]) (dataSyms_codeSpace c)⟩

end Sys2Proof.Machine
end

section
/-! PROOFS. The timing family: when a poll fires and what the firing does (spec/42_timing_fsm.md rules R141 to R144). -/

namespace Sys2Proof.Machine

/-- R144: a poll that does not fire, idle or early, is the identity. -/
theorem poll_of_idle_or_early {p : Config.Params} {s : State} (h : s.wr = 0 ∨ s.nowMs - s.last < p.symbolMs) :
    poll p s = s := by
  rcases poll_cases p s with ⟨_, hpoll⟩ | ⟨hfires, _⟩
  · exact hpoll
  · obtain ⟨hwr, hdue⟩ := (fires_iff p s s.nowMs).1 hfires
    exact (h.elim hwr (BitVec.not_lt.2 hdue)).elim

/-- R143: a running poll fires from `SYMBOL_MS` of elapsed time on. -/
theorem poll_of_due {p : Config.Params} {s : State} (hwr : s.wr ≠ 0) (hdue : p.symbolMs ≤ s.nowMs - s.last) :
    poll p s = fire p s s.nowMs := by
  have hfires : fires p s s.nowMs = true := (fires_iff p s s.nowMs).2 ⟨hwr, hdue⟩
  rcases poll_cases p s with ⟨hnot, _⟩ | ⟨_, hpoll⟩
  · exact absurd hfires (Bool.eq_false_iff.1 hnot)
  · exact hpoll

/-- R160: executing the row of a symbol value is the dispatch of that value, the invalid one too. -/
theorem exec_decodeSym (v : Sym) (s : State) : exec (decodeSym v) s = .next (key hw v s) := by
  rcases sym_cases v with rfl | rfl | rfl | rfl
  · exact exec_sil s
  · exact exec_mark s
  · exact exec_space s
  · exact exec_symInvalid s

/-- Settles O20: an elapsed poll is `fire`, whose first action is the dispatch of the symbol at `RD`; the invariant keeps
`RD` inside the stream, so its advance cannot overflow. -/
theorem pollFiresOneSymbol : Obligations.PollFiresOneSymbol := by
  intro s hinv hwr hdue
  have hpos : 0 < s.wr.toNat := Nat.pos_of_ne_zero fun h => hwr (BitVec.eq_of_toNat_eq h)
  have hpoll : exec .poll s = .next (fire hw s s.nowMs) := by rw [exec_poll, poll_of_due hwr hdue]
  exact ⟨key hw (s.readSym s.rd.toNat) s, fire hw s s.nowMs, exec_decodeSym _ s, rfl, hpoll, rfl,
    nextRd_toNat s (hinv.rd_lt hpos) hinv.wr_le⟩

/-- Settles O19: neither case meets the firing condition, so the poll answers its own state. -/
theorem pollEarlyOrIdleDoesNothing : Obligations.PollEarlyOrIdleDoesNothing := by
  intro s h
  rw [exec_poll, poll_of_idle_or_early h]

end Sys2Proof.Machine
end

section
/-! PROOFS. The keying family: the commands of the dispatch, and that nothing reads the VFO record (spec/43_vfo_keying.md rules
R161, R162, R166 and R168). -/

namespace Sys2Proof.Machine

/-- R160: the dispatch adds its commands to the record and changes nothing else. -/
theorem key_eq (p : Config.Params) (v : Sym) (s : State) :
    key p v s = { s with vfo := s.vfo ++ keyCmds p s.base v } := rfl

/-- R28: a cell of the stream never holds Silence. -/
theorem State.Inv.readSym_ne_sil {s : State} (hinv : s.Inv) {a : Nat} (ha : a < s.wr.toNat) : s.readSym a ≠ symSil := by
  rcases hinv.cells a ha with hmark | hspace
  · rw [s.readSym_of_read a _ hmark]; decide
  · rw [s.readSym_of_read a _ hspace]; decide

/-- Settles O22: the dispatch of Silence is one command, and the invariant lists only Marks and Spaces in the stream. -/
theorem silDisablesTheOutput : Obligations.SilDisablesTheOutput := by
  intro s
  refine ⟨?_, fun hinv a ha => hinv.readSym_ne_sil ha⟩
  rw [exec_sil, key_eq, keyCmds_sil]

/-- Settles O23: the dispatch of a Mark is two commands, the second with `BASE` as it stands. -/
theorem markKeysTheBase : Obligations.MarkKeysTheBase := by
  intro s
  rw [exec_mark, key_eq, keyCmds_mark]

/-- R166: how many commands each symbol value issues. -/
theorem keyCmds_length (p : Config.Params) (base : Word) (v : Sym) :
    (keyCmds p base v).length = if v = symMark ∨ v = symSpace then 2 else if v = symSil then 1 else 0 := by
  rcases sym_cases v with rfl | rfl | rfl | rfl <;> rfl

/-- The commands of a poll (R141, R143): those of the symbol at `RD` if it fires, none if not. -/
def pollCmds (p : Config.Params) (s : State) : List VfoCmd :=
  if fires p s s.nowMs then keyCmds p s.base (s.readSym s.rd.toNat) else []

/-- R142, negated: a poll does not fire when the stream is empty or the interval is not over. -/
theorem fires_eq_false_iff (p : Config.Params) (s : State) (now : Word) :
    fires p s now = false ↔ s.wr = 0 ∨ now - s.last < p.symbolMs := by
  rw [← Bool.not_eq_true, fires_iff, not_and_or, not_not, BitVec.not_le]

theorem poll_eq (p : Config.Params) (s : State) : poll p s = if fires p s s.nowMs then fire p s s.nowMs else s := by
  rcases poll_cases p s with ⟨hfires, hpoll⟩ | ⟨hfires, hpoll⟩
  · simp [hfires, hpoll]
  · simp [hfires, hpoll]

/-- R166: with any record before it a poll issues `pollCmds`, which no record enters, and does the same otherwise. -/
theorem poll_with_vfo (p : Config.Params) (s : State) (log : List VfoCmd) :
    poll p { s with vfo := log } = { poll p s with vfo := log ++ pollCmds p s } := by
  have hfires : fires p { s with vfo := log } s.nowMs = fires p s s.nowMs := rfl
  rw [poll_eq, poll_eq, pollCmds, hfires]
  split
  · rfl
  · rw [List.append_nil]

theorem pollCmds_length (p : Config.Params) (s : State) :
    (pollCmds p s).length =
      if s.wr = 0 ∨ s.nowMs - s.last < p.symbolMs then 0
      else if s.readSym s.rd.toNat = symMark ∨ s.readSym s.rd.toNat = symSpace then 2
      else if s.readSym s.rd.toNat = symSil then 1
      else 0 := by
  rw [pollCmds]
  cases hfires : fires p s s.nowMs with
  | false => rw [if_pos ((fires_eq_false_iff p s s.nowMs).1 hfires)]; rfl
  | true =>
    have hdue : ¬(s.wr = 0 ∨ s.nowMs - s.last < p.symbolMs) := fun h =>
      Bool.false_ne_true (((fires_eq_false_iff p s s.nowMs).2 h).symm.trans hfires)
    rw [if_neg hdue]
    exact keyCmds_length p s.base _

/-- R168 for one operation: it appends commands that the record does not enter, and otherwise does the same whatever the
record. -/
def OnlyAppends (f : State → State) : Prop :=
  ∀ s : State, ∃ cmds, ∀ log, f { s with vfo := log } = { f s with vfo := log ++ cmds }

/-- The record's own case: what such an operation leaves in it. -/
theorem vfo_of_with_vfo {f : State → State} {s : State} {cmds : List VfoCmd}
    (h : ∀ log, f { s with vfo := log } = { f s with vfo := log ++ cmds }) : (f s).vfo = s.vfo ++ cmds :=
  congrArg State.vfo (h s.vfo)

/-- An operation that neither reads nor writes the record appends nothing. -/
theorem OnlyAppends.of_commutes {f : State → State}
    (h : ∀ (s : State) log, f { s with vfo := log } = { f s with vfo := log }) : OnlyAppends f :=
  fun s => ⟨[], fun log => by rw [h, List.append_nil]⟩

theorem poll_onlyAppends (p : Config.Params) : OnlyAppends (poll p) :=
  fun s => ⟨pollCmds p s, poll_with_vfo p s⟩

theorem key_onlyAppends (p : Config.Params) (v : Sym) : OnlyAppends (key p v) :=
  fun s => ⟨keyCmds p s.base v, fun _ => rfl⟩

theorem qPush_with_vfo (p : Config.Params) (v : Sym) (s : State) (log : List VfoCmd) :
    qPush p v { s with vfo := log } = { qPush p v s with vfo := log } := by
  unfold qPush
  dsimp only
  split <;> rfl

theorem pushAll_with_vfo (p : Config.Params) (vs : List Sym) (s : State) (log : List VfoCmd) :
    pushAll p vs { s with vfo := log } = { pushAll p vs s with vfo := log } := by
  induction vs generalizing s with
  | nil => rfl
  | cons v vs ih =>
    change pushAll p vs (qPush p v { s with vfo := log }) = _
    rw [qPush_with_vfo]
    exact ih (qPush p v s)

theorem emitCode_onlyAppends (p : Config.Params) (c : BitVec p.codeW) : OnlyAppends (emitCode p c) :=
  .of_commutes (pushAll_with_vfo p (expand p.toCodeSpace c))

theorem render_onlyAppends (p : Config.Params) (text : List Byte) : OnlyAppends (render p text) := by
  refine .of_commutes fun s log => ?_
  have hreset : qReset { s with vfo := log } = { qReset s with vfo := log } := rfl
  rw [render_eq, render_eq, hreset, pushAll_with_vfo]
  rfl

/-- Every instruction is such an operation; the arms not named are the 32 codes. -/
theorem exec_onlyAppends (i : Instr) : ∃ f, (∀ s, exec i s = .next (f s)) ∧ OnlyAppends f := by
  cases i with
  | setfreq imm => exact ⟨_, exec_setfreq imm, .of_commutes fun _ _ => rfl⟩
  | setmsg text => exact ⟨_, exec_setmsg text, render_onlyAppends hw text⟩
  | setdelay imm => exact ⟨_, exec_setdelay imm, .of_commutes fun _ _ => rfl⟩
  | poll => exact ⟨_, exec_poll, poll_onlyAppends hw⟩
  | reserved opcode => exact ⟨_, exec_reserved opcode, .of_commutes fun _ _ => rfl⟩
  | stop => exact ⟨_, exec_stop, render_onlyAppends hw []⟩
  | sil => exact ⟨_, exec_sil, key_onlyAppends hw symSil⟩
  | mark => exact ⟨_, exec_mark, key_onlyAppends hw symMark⟩
  | space => exact ⟨_, exec_space, key_onlyAppends hw symSpace⟩
  | symInvalid => exact ⟨_, exec_symInvalid, key_onlyAppends hw 3#2⟩
  | _ => exact ⟨_, fun _ => rfl, emitCode_onlyAppends hw _⟩

/-- What an instruction appends to the record, and that it does the same with any other record. -/
theorem exec_with_vfo (i : Instr) (s : State) :
    ∃ u cmds, exec i s = .next u ∧ u.vfo = s.vfo ++ cmds ∧
      ∀ log, exec i { s with vfo := log } = .next { u with vfo := log ++ cmds } := by
  obtain ⟨f, hexec, happends⟩ := exec_onlyAppends i
  obtain ⟨cmds, hcmds⟩ := happends s
  exact ⟨f s, cmds, hexec s, vfo_of_with_vfo hcmds, fun log => by rw [hexec, hcmds]⟩

/-- Settles O26: a poll's commands are `pollCmds`, whose count follows from whether it fires and on which symbol. -/
theorem commandsAreNeverSuppressed : Obligations.CommandsAreNeverSuppressed := by
  intro s log
  refine ⟨poll hw s, pollCmds hw s, exec_poll s, vfo_of_with_vfo (poll_with_vfo hw s), ?_, pollCmds_length hw s⟩
  rw [exec_poll, poll_with_vfo]

/-- Settles O28: receiving does not look at the record, so the step takes the same branch with another one; there an executed
command appends the same commands, a cut one the same first `k` of them, and a reset or a wait none. -/
theorem vfoIsOnlyASink : Obligations.VfoIsOnlyASink := by
  intro s t log hstep
  cases step_effect s with
  | command i now es hrecv hwhole h =>
    obtain ⟨u, cmds, hu, hvfo, hlog⟩ := exec_with_vfo i (((s.setDec []).setNowMs now).setPort es)
    obtain rfl : u = t := Host.Outcome.next.inj (hu.symm.trans (h.trans hstep))
    exact ⟨cmds, hvfo, (step_command (s := { s with vfo := log }) hrecv hwhole).trans (hlog log)⟩
  | cut i now k es hrecv h =>
    obtain ⟨u, cmds, hu, hvfo, hlog⟩ := exec_with_vfo i (((s.setDec []).setNowMs now).setPort es)
    obtain rfl := Host.Outcome.next.inj ((h u hu).trans hstep)
    refine ⟨cmds.take k, by rw [abandon_eq k hvfo]; rfl, ?_⟩
    rw [step_cut (s := { s with vfo := log }) hrecv (hlog log), abandon_eq k hvfo, abandon_eq k rfl]
    rfl
  | reset now es hrecv h =>
    obtain rfl := Host.Outcome.next.inj (h.trans hstep)
    exact ⟨[], (List.append_nil _).symm, by rw [List.append_nil]; exact step_reset (s := { s with vfo := log }) hrecv⟩
  | waiting dec now hrecv h =>
    obtain rfl := Host.Outcome.next.inj (h.trans hstep)
    exact ⟨[], (List.append_nil _).symm, by rw [List.append_nil]; exact step_waiting (s := { s with vfo := log }) hrecv⟩

end Sys2Proof.Machine
end

section
/-! PROOFS. The exceptions family: no operation has a fault outcome (spec/60_exceptions.md rule R200). -/

namespace Sys2Proof.Machine

/-- R200 for one operation: every row's meaning is a function from states to states. -/
theorem exec_eq_next (i : Instr) (s : State) : ∃ t, exec i s = .next t := by
  obtain ⟨f, hexec, _⟩ := exec_onlyAppends i
  exact ⟨f s, hexec s⟩

/-- R200 for a transaction: a step answers what one instruction does, what is left of it when a reset cuts it, or a state that
executes nothing. -/
theorem step_eq_next (s : State) : ∃ t, step s = .next t := by
  cases step_effect s with
  | command i now es _ _ h =>
    obtain ⟨u, hu⟩ := exec_eq_next i (((s.setDec []).setNowMs now).setPort es)
    exact ⟨u, h.symm.trans hu⟩
  | cut i now k es _ h =>
    obtain ⟨u, hu⟩ := exec_eq_next i (((s.setDec []).setNowMs now).setPort es)
    exact ⟨_, (h u hu).symm⟩
  | reset now es _ h => exact ⟨_, h.symm⟩
  | waiting dec now _ h => exact ⟨_, h.symm⟩

/-- Settles O9: every row's meaning gives a state, and each of the four things a step can do rests on at most one of them. -/
theorem everyStepIsNext : Obligations.EveryStepIsNext :=
  ⟨exec_eq_next, step_eq_next⟩

end Sys2Proof.Machine
end

section
/-! PROOFS. The encoding family: the decoder of the command stream reads exactly what the encoder writes
(spec/30_encoding.md rules R70 to R87). -/

namespace Sys2Proof.Machine

/-- R81: the bits of an immediate, eight from each byte, the first byte lowest. -/
theorem getLsbD_imm32 (b1 b2 b3 b4 : Byte) (i : Nat) :
    (imm32 b1 b2 b3 b4).getLsbD i =
      if i < 8 then b1.getLsbD i
      else if i < 16 then b2.getLsbD (i - 8)
      else if i < 24 then b3.getLsbD (i - 16)
      else b4.getLsbD (i - 24) := by
  simp only [imm32, BitVec.getLsbD_or, BitVec.getLsbD_shiftLeft, BitVec.getLsbD_setWidth]
  grind

/-- R78, R81: the bytes of an immediate make up the immediate. -/
theorem takeImm_immBytes (imm : Word) (rest : List Byte) : takeImm (immBytes imm ++ rest) = some (imm, rest) := by
  have himm : imm32 (imm.extractLsb' 0 8) (imm.extractLsb' 8 8) (imm.extractLsb' 16 8) (imm.extractLsb' 24 8) = imm := by
    refine BitVec.eq_of_getLsbD_eq fun i hi => ?_
    simp only [getLsbD_imm32, BitVec.getLsbD_extractLsb']
    grind
  simp [immBytes, takeImm, himm]

theorem immBytes_imm32 (b1 b2 b3 b4 : Byte) : immBytes (imm32 b1 b2 b3 b4) = [b1, b2, b3, b4] := by
  simp only [immBytes, List.cons.injEq, and_true]
  refine ⟨?_, ?_, ?_, ?_⟩
  all_goals
    refine BitVec.eq_of_getLsbD_eq fun i hi => ?_
    simp only [BitVec.getLsbD_extractLsb', getLsbD_imm32]
    grind

/-- R78: a format F4 command takes the four bytes of its immediate. -/
theorem eq_of_takeImm {bs rest : List Byte} {imm : Word} (h : takeImm bs = some (imm, rest)) :
    bs = immBytes imm ++ rest := by
  unfold takeImm at h
  split at h
  · obtain ⟨rfl, rfl⟩ := Prod.mk.inj (Option.some.inj h)
    rw [immBytes_imm32]; rfl
  · cases h

/-- R79: the text ends at the first 0x00. -/
theorem takeText_terminated {text : List Byte} (h : textNonZero text = true) (rest : List Byte) :
    takeText (text ++ 0x00#8 :: rest) = some (text, rest) := by
  induction text with
  | nil => rfl
  | cons b text ih =>
    obtain ⟨hb, htext⟩ : b ≠ 0x00#8 ∧ textNonZero text = true := by simpa [textNonZero] using h
    simp [takeText, hb, ih htext]

/-- R79: a format FS command takes its text, which holds no 0x00, and the 0x00 after it. -/
theorem eq_of_takeText {bs text rest : List Byte} (h : takeText bs = some (text, rest)) :
    textNonZero text = true ∧ bs = text ++ 0x00#8 :: rest := by
  induction bs generalizing text with
  | nil => cases h
  | cons b bs ih =>
    rw [takeText] at h
    split at h
    case isTrue hb =>
      obtain ⟨rfl, rfl⟩ := Prod.mk.inj (Option.some.inj h)
      exact ⟨rfl, by rw [hb]; rfl⟩
    case isFalse hb =>
      split at h
      · rename_i tail rest' htake
        obtain ⟨rfl, rfl⟩ := Prod.mk.inj (Option.some.inj h)
        obtain ⟨htail, rfl⟩ := ih htake
        exact ⟨by simpa [textNonZero, hb] using htail, rfl⟩
      · cases h

/-- Settles O46: the opcode byte picks the format, whose operand is read back. -/
theorem commandsAreReadOneByOne : Obligations.CommandsAreReadOneByOne := by
  intro i rest hcmd hwf
  cases i with
  | setfreq imm =>
    change decode (0x01#8 :: (immBytes imm ++ rest)) = .instr (.setfreq imm) rest
    simp [decode, takeImm_immBytes]
  | setmsg text =>
    change textNonZero text = true at hwf
    simp [encodeBytes, encode, decode, takeText_terminated hwf, Instr.canonical]
  | setdelay imm =>
    change decode (0x03#8 :: (immBytes imm ++ rest)) = .instr (.setdelay imm) rest
    simp [decode, takeImm_immBytes]
  | poll => rfl
  | reserved opcode =>
    simp only [Instr.wellFormed, reservedByte, Bool.and_eq_true, bne_iff_ne] at hwf
    simp [encodeBytes, encode, decode, hwf, Instr.canonical]
  | stop => rfl
  | _ => cases hcmd

/-- Settles O47: each branch of the decoder takes its opcode byte and the operand that the format of that byte gives it. -/
theorem decodedCommandsReencode : Obligations.DecodedCommandsReencode := by
  intro bs rest i h
  cases bs with
  | nil => cases h
  | cons opcode bytes =>
    rw [decode] at h
    split_ifs at h with hfreq hmsg hdelay hpoll
    · split at h <;> cases h
      rename_i htake
      exact ⟨rfl, rfl, by rw [hfreq, eq_of_takeImm htake]; rfl⟩
    · split at h <;> cases h
      rename_i htake
      obtain ⟨htext, hbytes⟩ := eq_of_takeText htake
      exact ⟨rfl, htext, by simp [hmsg, hbytes, encodeBytes, encode]⟩
    · split at h <;> cases h
      rename_i htake
      exact ⟨rfl, rfl, by rw [hdelay, eq_of_takeImm htake]; rfl⟩
    · cases h
      exact ⟨rfl, rfl, by rw [hpoll]; rfl⟩
    · cases h
      exact ⟨rfl, by simp [Instr.wellFormed, reservedByte, hfreq, hmsg, hdelay, hpoll], rfl⟩

theorem encode_of_isCommand {i : Instr} (h : i.isCommand = true) : encode i = .bytes (encodeBytes i) := by
  cases i with
  | setfreq _ | setmsg _ | setdelay _ | poll | reserved _ | stop => rfl
  | _ => cases h

/-- Settles O45: a command is read at the front of its own bytes with nothing left; the four symbols and the 32 codes each
decode to the row that has their value. -/
theorem decodeEncode : Obligations.DecodeEncode := by
  intro i hwf
  cases hcmd : i.isCommand with
  | true =>
    have hread : decode (encodeBytes i) = .instr i.canonical [] := by
      simpa using commandsAreReadOneByOne i [] hcmd hwf
    rw [encode_of_isCommand hcmd, decodeEncoding, hread]
  | false =>
    cases i with
    | setfreq _ | setmsg _ | setdelay _ | poll | reserved _ | stop => cases hcmd
    | _ => rfl

/-- R84: bytes after a whole command do not change how it is read. -/
theorem decode_append {bs rest : List Byte} {i : Instr} (h : decode bs = .instr i rest) (more : List Byte) :
    decode (bs ++ more) = .instr i (rest ++ more) := by
  obtain ⟨hcmd, hwf, rfl⟩ := decodedCommandsReencode bs rest i h
  have hread := commandsAreReadOneByOne i rest hcmd hwf
  have hcanonical : i.canonical = i := (Decoded.instr.inj (hread.symm.trans h)).1
  rw [List.append_assoc, commandsAreReadOneByOne i _ hcmd hwf, hcanonical]

/-- A beginning of an incomplete command is incomplete. -/
theorem decode_beginning_refused {a b : List Byte} {r : DecodeRefusal} (h : decode (a ++ b) = .refused r) :
    ∃ q, decode a = .refused q := by
  cases ha : decode a with
  | refused q => exact ⟨q, rfl⟩
  | instr i rest => rw [decode_append ha] at h; cases h

/-- A proper beginning of one whole command is incomplete. -/
theorem decode_proper_beginning_refused {a b : List Byte} {i : Instr} (h : decode (a ++ b) = .instr i []) (hb : b ≠ []) :
    ∃ q, decode a = .refused q := by
  cases ha : decode a with
  | refused q => exact ⟨q, rfl⟩
  | instr j rest =>
    obtain ⟨_, hnil⟩ := Decoded.instr.inj ((decode_append ha b).symm.trans h)
    exact absurd (List.append_eq_nil_iff.1 hnil).2 hb

/-- Settles O48: with the bytes cut off put back, the beginning would be a whole command with bytes left over. -/
theorem beginningsAreIncomplete : Obligations.BeginningsAreIncomplete := by
  intro i k hcmd hwf hk
  have hread := commandsAreReadOneByOne i [] hcmd hwf
  rw [List.append_nil, ← List.take_append_drop k (encodeBytes i)] at hread
  refine decode_proper_beginning_refused hread fun hnil => ?_
  have := List.drop_eq_nil_iff.1 hnil
  omega

/-- Settles O49: nine closed words. -/
theorem decodedWords : Obligations.DecodedWords := by
  unfold Obligations.DecodedWords
  decide

/-- Settles O30: the 32 codes, each against the table. -/
theorem everyCodeIsATableRow : Obligations.EveryCodeIsATableRow := by
  unfold Obligations.EveryCodeIsATableRow
  decide

end Sys2Proof.Machine
end

section
/-! PROOFS. The queue and the render: frames, the stream a text leaves, and what the render leaves alone
(spec/41_queue_render.md rules R120 to R130, spec/20_memory.md section 7). -/

namespace Sys2Proof.Machine

theorem expand_zero (k : Config.CodeSpace) (c : BitVec k.codeW) : (expand k c)[0]? = some symSpace := rfl

/-- R73, R122: the data symbols stand after the start symbol, the most significant bit first. -/
theorem expand_data (k : Config.CodeSpace) (c : BitVec k.codeW) {i : Nat} (hi : i < k.codeW) :
    (expand k c)[i + 1]? = some (bitSym (c.getLsbD (k.codeW - 1 - i))) := by
  have hdata : i < (dataSyms k c).length := by rwa [dataSyms_length]
  rw [expand, List.cons_append, List.getElem?_cons_succ, List.getElem?_append_left hdata]
  simp [dataSyms, hi]

/-- R73, R122: after the data symbols the frame holds Marks only. -/
theorem expand_stop (k : Config.CodeSpace) (c : BitVec k.codeW) {i : Nat} (hdata : k.codeW < i) (hi : i < k.frameLen) :
    (expand k c)[i]? = some symMark := by
  have hskip : (symSpace :: dataSyms k c).length ≤ i := by simpa using hdata
  rw [expand, List.getElem?_append_right hskip, List.length_cons, dataSyms_length, List.getElem?_replicate]
  exact if_pos (by omega)

/-- Settles O53: the three parts of a frame, one lemma each. -/
theorem framesOfAnyCodeSpace : Obligations.FramesOfAnyCodeSpace :=
  fun k c => ⟨expand_length k c, expand_zero k c, fun _ => expand_data k c, fun _ => expand_stop k c⟩

theorem SameButQueue.eq_with {s t : State} (h : SameButQueue s t) : t = { s with sym := t.sym, wr := t.wr } := by
  obtain ⟨hfigs, hrd, hlast, hbase, hdelay, hdec, hnow, hport, hvfo, hresets⟩ := h
  rw [← hfigs, ← hrd, ← hlast, ← hbase, ← hdelay, ← hdec, ← hnow, ← hport, ← hvfo, ← hresets]

theorem qPush_sameButQueue (p : Config.Params) (v : Sym) (s : State) : SameButQueue s (qPush p v s) := by
  unfold qPush
  split
  · constructor <;> rfl
  · exact SameButQueue.refl s

/-- Pushing leaves the rest of the state alone, even where `WR` is beyond the capacity. -/
theorem pushAll_sameButQueue (p : Config.Params) (vs : List Sym) (s : State) : SameButQueue s (pushAll p vs s) := by
  induction vs generalizing s with
  | nil => exact SameButQueue.refl s
  | cons v vs ih => exact (qPush_sameButQueue p v s).trans (ih (qPush p v s))

theorem emitCode_sameButQueue (p : Config.Params) (c : BitVec p.codeW) (s : State) : SameButQueue s (emitCode p c s) :=
  pushAll_sameButQueue p (expand p.toCodeSpace c) s

/-- A row with the encoding of a code is executed as `EMIT_CODE` of it (log 20); the rows of the other groups have none. -/
theorem exec_of_encode_code {i : Instr} {c : Code} (h : encode i = .code c) (s : State) :
    exec i s = .next (emitCode hw c s) := by
  cases i <;> cases h <;> rfl

/-- Each row of the table has the frame of its code beside it. -/
theorem frameRows_expand : ∀ row ∈ frameRows, ∃ c : Code, encode row.1 = .code c ∧ row.2 = expand codeSpace c := by
  have hcode : ∀ row ∈ frameRows, ∃ n < 32,
      encode row.1 = .code (BitVec.ofNat 5 n) ∧ row.2 = expand codeSpace (BitVec.ofNat 5 n) := by decide
  intro row hrow
  obtain ⟨n, _, h⟩ := hcode row hrow
  exact ⟨BitVec.ofNat 5 n, h⟩

/-- Settles O29: executing a row pushes the eight symbols of its code's frame, which `pushAll_pushed` describes. -/
theorem codesPushTheirFrames : Obligations.CodesPushTheirFrames := by
  intro row hrow s hwr
  obtain ⟨c, hcode, hframe⟩ := frameRows_expand row hrow
  have hpushed : Pushed hw row.2 s (emitCode hw c s) := hframe ▸ pushAll_pushed hw (expand codeSpace c) s hwr
  have hlen : row.2.length = 8 := hframe ▸ expand_length codeSpace c
  exact ⟨_, exec_of_encode_code hcode s, hpushed.rest.eq_with, hlen ▸ hpushed.wr, hpushed.cells⟩

/-- R121, R125: what the pushes of a render start from and come to. -/
theorem render_pushed (p : Config.Params) (text : List Byte) (s : State) :
    Pushed p (messageSyms p text) (qReset s) (pushAll p (messageSyms p text) (qReset s)) :=
  pushAll_pushed p (messageSyms p text) (qReset s) (Nat.zero_le _)

/-- The registers and the world after a render: only `FIGS`, `SYM`, `WR`, `RD` and `LAST` are written (R121, R125, R126). -/
theorem render_eq_with (p : Config.Params) (text : List Byte) (s : State) :
    render p text s = { s with
      figs := textMode p.rom text false, sym := (render p text s).sym, wr := (render p text s).wr, rd := 0, last := 0 } := by
  rw [render_eq]
  exact congrArg (State.setFigs · (textMode p.rom text false)) (render_pushed p text s).rest.eq_with

theorem render_wr (p : Config.Params) (text : List Byte) (s : State) :
    (render p text s).wr.toNat = min p.capacity (messageSyms p text).length := by
  have hwr := (render_pushed p text s).wr
  rw [render_eq, State.setFigs_wr, hwr]
  exact congrArg (min p.capacity) (Nat.zero_add _)

/-- R123, R125: the cells below `WR` are the leading symbols of the message, those from `WR` on are left as they were. -/
theorem render_read (p : Config.Params) (text : List Byte) (s : State) (a : Nat) :
    (render p text s).sym.read a =
      if a < (render p text s).wr.toNat then (messageSyms p text)[a]? else s.sym.read a := by
  have hcells := (render_pushed p text s).cells a
  rw [render_eq, State.setFigs_sym, State.setFigs_wr, hcells]
  exact if_congr (and_iff_right (Nat.zero_le a)) rfl rfl

/-- Settles O15: the cells below `WR` are the message's, and there are as many of them as fit. -/
theorem renderIsTheTruncatedMessage : Obligations.RenderIsTheTruncatedMessage := by
  intro p text s
  have hwr := render_wr p text s
  refine List.ext_getElem (by simp [State.stream, hwr]) fun a ha _ => ?_
  have halt : a < (render p text s).wr.toNat := by simpa [State.stream] using ha
  have hlen : a < (messageSyms p text).length := by omega
  have hread : (render p text s).sym.read a = some ((messageSyms p text)[a]) := by
    rw [render_read, if_pos halt, List.getElem?_eq_getElem hlen]
  simpa [State.stream] using State.readSym_of_read _ a _ hread

/-- The length of the untruncated message of a non-empty text. -/
theorem messageSyms_length (p : Config.Params) {text : List Byte} (htext : text ≠ []) :
    (messageSyms p text).length = p.preambleMarks + p.frameLen * (1 + (textCodes p.rom text false).length) := by
  have hframes : ((textCodes p.rom text false).flatMap (expand p.toCodeSpace)).length =
      p.frameLen * (textCodes p.rom text false).length := by
    simp [List.length_flatMap, Nat.mul_comm]
  rw [messageSyms, if_neg fun h => htext h.1, List.length_append, List.length_append, hframes, List.length_replicate,
    expand_length]
  ring

/-- Settles O54: the size is that of the message, as far as it fits. -/
theorem streamSizeOfAnyConfiguration : Obligations.StreamSizeOfAnyConfiguration := by
  intro p text s htext
  rw [render_wr, messageSyms_length p htext]

/-- With the reference values the preamble and the Letters-shift frame are 11 symbols, each code is 8 more (R125). -/
theorem render_hw_wr {text : List Byte} (htext : text ≠ []) (s : State) :
    (render hw text s).wr.toNat = min 2048 (11 + 8 * (textCodes hw.rom text false).length) := by
  rw [streamSizeOfAnyConfiguration hw text s htext]
  change min 2048 (3 + 8 * (1 + _)) = _
  omega

/-- Settles O14: the render's registers, its size and its cells below and from `WR` on. -/
theorem setmsgRendersTheText : Obligations.SetmsgRendersTheText := by
  intro text s htext
  refine ⟨render hw text s, exec_setmsg text s, render_eq_with hw text s, render_hw_wr htext s,
    fun a ha => ?_, fun a ha => ?_⟩
  · rw [render_read, if_pos ha]
  · rw [render_read, if_neg (Nat.not_lt.2 ha)]

/-- Settles O16: the empty text renders as the reset of the cursor, then Letters mode. -/
theorem emptyMessageIsIdle : Obligations.EmptyMessageIsIdle :=
  fun s => ⟨exec_setmsg [] s, exec_stop s⟩

/-- Settles O17: stream, size, registers and shift state after a render are functions of the text alone. -/
theorem renderForgetsThePast : Obligations.RenderForgetsThePast := by
  intro text s s'
  refine ⟨_, _, exec_setmsg text s, exec_setmsg text s', ?_, ?_, ?_⟩
  · rw [renderIsTheTruncatedMessage, renderIsTheTruncatedMessage]
  · exact BitVec.eq_of_toNat_eq (by rw [render_wr, render_wr])
  · rw [render_eq_with hw text s, render_eq_with hw text s']
    exact ⟨rfl, rfl, rfl⟩

/-- R74, R125: the first 11 symbols of a non-empty message are the preamble and the Letters-shift frame. -/
theorem messageSyms_hw_opening {text : List Byte} (htext : text ≠ []) {a : Nat} (ha : a < 11) :
    (messageSyms hw text)[a]? = (List.replicate 3 symMark ++ symSpace :: List.replicate 7 symMark)[a]? := by
  rw [messageSyms, if_neg fun h => htext h.1]
  exact List.getElem?_append_left ha

/-- A render of a non-empty text reaches at least the end of the Letters-shift frame. -/
theorem render_read_opening {text : List Byte} (htext : text ≠ []) (s : State) {a : Nat} (ha : a < 11) :
    (render hw text s).sym.read a = (List.replicate 3 symMark ++ symSpace :: List.replicate 7 symMark)[a]? := by
  have hwr := render_hw_wr htext s
  rw [render_read, if_pos (by omega), messageSyms_hw_opening htext ha]

/-- Settles O18: cells 0 to 10 of the opening, read off its symbols. -/
theorem renderOpensWithPreambleAndLetters : Obligations.RenderOpensWithPreambleAndLetters := by
  intro text s htext
  refine ⟨render hw text s, exec_setmsg text s, fun a ha => ?_, render_read_opening htext s (by decide), fun a h4 h10 => ?_⟩
  · rw [render_read_opening htext s (by omega)]
    interval_cases a <;> rfl
  · rw [render_read_opening htext s (by omega)]
    interval_cases a <;> rfl

end Sys2Proof.Machine
end

section
/-! PROOFS. The codec: where a lookup finds a character, and which codes the codec can return
(spec/40_codec.md sections 2 and 5, spec/20_memory.md section 2). -/

namespace Sys2Proof.Machine

/-- WF1 to WF4 of either table of a ROM pair (R52). -/
theorem romPair_table_wf {k : Config.CodeSpace} (r : Config.RomPair k) {t : List Byte} (ht : t = r.ltrs ∨ t = r.figs) :
    t.length = k.romLen ∧ Config.sentinelsEmpty k t = true ∧ Config.sameIndex k t t = true := by
  have h := r.wf
  simp only [Config.romCheck, Bool.and_eq_true, beq_iff_eq] at h
  obtain ⟨⟨⟨⟨⟨⟨hlenL, hlenF⟩, hemptyL⟩, hemptyF⟩, hsameL⟩, hsameF⟩, _⟩ := h
  rcases ht with rfl | rfl
  · exact ⟨hlenL, hemptyL, hsameL⟩
  · exact ⟨hlenF, hemptyF, hsameF⟩

/-- The scan of R100 finds a character that the words hold somewhere. -/
theorem lookupFrom_finds (k : Config.CodeSpace) {ch : Byte} (hne : ch ≠ Config.romNone) {t : List Byte} {m : Nat}
    (hread : Config.romRead t m = ch) (n : Nat) : ∃ i, lookupFrom k ch n t = some i := by
  induction t generalizing m n with
  | nil => exact absurd hread.symm hne
  | cons w words ih =>
    rw [lookupFrom]
    split
    case isTrue => exact ⟨_, rfl⟩
    case isFalse hw =>
      cases m with
      | zero => exact absurd ⟨(show w = ch from hread) ▸ hne, hread⟩ hw
      | succ m => exact ih (m := m) hread (n + 1)

/-- Settles O32: the scan stops at an index that holds the character, and WF4 leaves no other. -/
theorem lookupFindsTheOnlyIndex : Obligations.LookupFindsTheOnlyIndex := by
  intro k r t ch i ht
  obtain ⟨hlen, _, hsame⟩ := romPair_table_wf r ht
  constructor
  · intro hfound
    obtain ⟨_, hread, hne⟩ := lookup_eq_some hlen hfound
    exact ⟨hne, hread⟩
  · rintro ⟨hne, hread⟩
    obtain ⟨j, hj⟩ := lookupFrom_finds k hne hread 0
    obtain ⟨hjlt, hjread, _⟩ := lookup_eq_some hlen hj
    have hilt : i.toNat < k.romLen := by
      by_contra hge
      have hnone : Config.romRead t i.toNat = Config.romNone := List.getD_eq_default _ _ (by omega)
      exact hne (hread.symm.trans hnone)
    have hij := sameIndex_iff.1 hsame _ hjlt (hjread ▸ hne) _ hilt (hread.trans hjread.symm)
    exact BitVec.eq_of_toNat_eq hij ▸ hj

/-- R72: a code that stands for a character: neither code 0 nor a sentinel. -/
def PlainCode (k : Config.CodeSpace) (i : BitVec k.codeW) : Prop := i ≠ 0#k.codeW ∧ i ≠ k.codeLtrs ∧ i ≠ k.codeFigs

/-- WF2 and WF3: a lookup only finds plain codes. -/
theorem plainCode_of_lookup {k : Config.CodeSpace} (r : Config.RomPair k) {t : List Byte} (ht : t = r.ltrs ∨ t = r.figs)
    {ch : Byte} {i : BitVec k.codeW} (h : lookup k t ch = some i) : PlainCode k i := by
  obtain ⟨hlen, hempty, _⟩ := romPair_table_wf r ht
  obtain ⟨_, hread, hne⟩ := lookup_eq_some hlen h
  simp only [Config.sentinelsEmpty, Bool.and_eq_true, beq_iff_eq] at hempty
  obtain ⟨⟨hzero, hfigs⟩, hltrs⟩ := hempty
  refine ⟨?_, ?_, ?_⟩ <;> rintro rfl <;> refine hne (hread.symm.trans ?_)
  · simpa using hzero
  · exact hltrs
  · exact hfigs

/-- R110(d) of a list of codes: at most two, none 0, a sentinel only as the first of two. -/
def SendableCodes (k : Config.CodeSpace) (cs : List (BitVec k.codeW)) : Prop :=
  0#k.codeW ∉ cs ∧ cs.length ≤ 2 ∧
    ∀ n, cs[n]? = some k.codeLtrs ∨ cs[n]? = some k.codeFigs → n = 0 ∧ cs.length = 2

theorem sendableCodes_nil (k : Config.CodeSpace) : SendableCodes k [] := by simp [SendableCodes]

theorem sendableCodes_single {k : Config.CodeSpace} {i : BitVec k.codeW} (hi : PlainCode k i) : SendableCodes k [i] := by
  obtain ⟨hzero, hltrs, hfigs⟩ := hi
  refine ⟨by simpa using hzero.symm, by simp, fun n hn => ?_⟩
  cases n with
  | zero => simp [hltrs, hfigs] at hn
  | succ n => simp at hn

theorem sendableCodes_shifted {k : Config.CodeSpace} {c i : BitVec k.codeW} (hc : c ≠ 0#k.codeW) (hi : PlainCode k i) :
    SendableCodes k [c, i] := by
  obtain ⟨hzero, hltrs, hfigs⟩ := hi
  refine ⟨by simp [hzero.symm, hc.symm], by simp, fun n hn => ?_⟩
  match n with
  | 0 => exact ⟨rfl, rfl⟩
  | 1 => simp [hltrs, hfigs] at hn
  | n + 2 => simp at hn

/-- Settles O36: the outcomes of the two lookups give no code, one plain code, or a sentinel and a plain code. -/
theorem codecNeverSendsUnusedOrLoneSentinels : Obligations.CodecNeverSendsUnusedOrLoneSentinels := by
  intro k r ch figs
  change SendableCodes k (encodeChar r ch figs).1
  cases hl : lookup k r.ltrs ch with
  | none =>
    cases hf : lookup k r.figs ch with
    | none => rw [encodeChar_unsupported (classify_of_found_nowhere hl hf)]; exact sendableCodes_nil k
    | some j =>
      have hj : PlainCode k j := plainCode_of_lookup r (.inr rfl) hf
      rw [encodeChar_figure (classify_of_found_in_figs hl hf)]
      cases figs
      · exact sendableCodes_shifted k.codeFigs_ne hj
      · exact sendableCodes_single hj
  | some i =>
    have hi : PlainCode k i := plainCode_of_lookup r (.inl rfl) hl
    cases hf : lookup k r.figs ch with
    | none =>
      rw [encodeChar_letter (classify_of_found_in_ltrs hl hf)]
      cases figs
      · exact sendableCodes_single hi
      · exact sendableCodes_shifted k.codeLtrs_ne hi
    | some j =>
      obtain rfl := lookup_index_unique r hl hf
      rw [encodeChar_shared (classify_of_found_in_both hl hf)]
      exact sendableCodes_single hi

end Sys2Proof.Machine
end

section
/-! PROOFS. The operations of the host and the symbols: what each writes, when a poll fires in plain time, and that each keeps
the state invariant (spec/10_state.md sections 1 and 4, spec/42_timing_fsm.md, spec/43_vfo_keying.md,
spec/44_host_commands.md). -/

namespace Sys2Proof.Machine

/-- Settles O11: the meaning is the one update. -/
theorem setfreqWritesBaseOnly : Obligations.SetfreqWritesBaseOnly := exec_setfreq

/-- Settles O12: the meaning is the one update, and `delay_q` is that field. -/
theorem setdelayWritesDelayOnly : Obligations.SetdelayWritesDelayOnly :=
  fun imm s => ⟨_, exec_setdelay imm s, rfl, rfl⟩

/-- Settles O13: the meaning is the identity. -/
theorem reservedByteDoesNothing : Obligations.ReservedByteDoesNothing := exec_reserved

/-! ## The symbols and the poll -/

/-- R163 in plain numbers: the subtraction wraps below the shift. -/
theorem spaceHz_toNat (p : Config.Params) (base : Word) :
    (spaceHz p base).toNat =
      if p.shiftHz.toNat ≤ base.toNat then base.toNat - p.shiftHz.toNat else base.toNat + 2 ^ 32 - p.shiftHz.toNat := by
  rw [spaceHz, BitVec.toNat_sub]
  split <;> omega

/-- Settles O24: the dispatch of a Space, whose frequency is the wrapping difference. -/
theorem spaceKeysTheShiftedBase : Obligations.SpaceKeysTheShiftedBase :=
  fun s => ⟨spaceHz hw s.base, exec_space s, spaceHz_toNat hw s.base⟩

/-- Settles O25: the dispatch of the invalid value has no command, so all a poll does with it is steps (b) and (c). -/
theorem invalidSymbolIssuesNothing : Obligations.InvalidSymbolIssuesNothing := by
  intro s
  refine ⟨?_, fun hwr hdue hsym => ?_⟩
  · rw [exec_symInvalid, key_eq, keyCmds_invalid, List.append_nil]
  · rw [exec_poll, poll_of_due hwr hdue, fire_eq, hsym, keyCmds_invalid, List.append_nil]

/-- R140: a Running core has a symbol in its stream. -/
theorem State.wr_pos {s : State} (hwr : s.wr ≠ 0) : 0 < s.wr.toNat :=
  Nat.pos_of_ne_zero fun h => hwr (BitVec.eq_of_toNat_eq h)

/-- D16: where the clock has not stepped back, the modular interval is the plain one. -/
theorem interval_le_iff {d last now : Word} (h : last.toNat ≤ now.toNat) :
    d ≤ now - last ↔ last.toNat + d.toNat ≤ now.toNat := by
  rw [BitVec.le_def, BitVec.toNat_sub_of_le (BitVec.le_def.2 h)]
  omega

/-- R141 under D16: a running poll fires exactly from `LAST + SYMBOL_MS` on. -/
theorem poll_of_plain_time (p : Config.Params) {s : State} (hwr : s.wr ≠ 0) (h : s.last.toNat ≤ s.nowMs.toNat) :
    poll p s = if s.last.toNat + p.symbolMs.toNat ≤ s.nowMs.toNat then fire p s s.nowMs else s := by
  split
  case isTrue hdue => exact poll_of_due hwr ((interval_le_iff h).2 hdue)
  case isFalse hearly =>
    exact poll_of_idle_or_early (.inr (BitVec.not_le.1 fun hle => hearly ((interval_le_iff h).1 hle)))

/-- Settles O21: the plain-time poll, with the state `fire` leaves. -/
theorem pollFiresByPlainTime : Obligations.PollFiresByPlainTime := by
  intro s hwr hmono
  refine ⟨poll hw s, exec_poll s, ?_⟩
  rw [poll_of_plain_time hw hwr hmono]
  split
  case isTrue hdue =>
    rw [if_pos (show s.last.toNat + hw.symbolMs.toNat ≤ s.nowMs.toNat from hdue)]
    exact ⟨rfl, rfl⟩
  case isFalse hearly => exact if_neg hearly

/-- R28: a running state reads a Mark or a Space. -/
theorem State.Inv.readSym_rd {s : State} (hinv : s.Inv) (hwr : s.wr ≠ 0) :
    s.readSym s.rd.toNat = symMark ∨ s.readSym s.rd.toNat = symSpace := by
  exact (hinv.cells _ (hinv.rd_lt (State.wr_pos hwr))).imp (s.readSym_of_read _ _) (s.readSym_of_read _ _)

/-- Settles O27: `SETFREQ` changes neither the firing condition nor the symbol, and the poll keys that symbol with the new
`BASE`. -/
theorem setfreqTakesEffectAtTheNextSymbol : Obligations.SetfreqTakesEffectAtTheNextSymbol := by
  intro s f hinv hf hwr hdue
  have hpoll : poll hw (s.setBase f) = fire hw (s.setBase f) s.nowMs := poll_of_due (s := s.setBase f) hwr hdue
  have hvfo : (poll hw (s.setBase f)).vfo = s.vfo ++ keyCmds hw f (s.readSym s.rd.toNat) := by rw [hpoll]; rfl
  rcases hinv.readSym_rd hwr with hsym | hsym
  · refine ⟨_, _, f, exec_setfreq f s, rfl, exec_poll _, by rw [hvfo, hsym, keyCmds_mark], fun _ => rfl, fun h => ?_⟩
    exact absurd (hsym.symm.trans h) (by decide)
  · refine ⟨_, _, spaceHz hw f, exec_setfreq f s, rfl, exec_poll _, by rw [hvfo, hsym, keyCmds_space]; rfl,
      fun h => ?_, ?_⟩
    · exact absurd (hsym.symm.trans h) (by decide)
    · intro _
      have hhz := spaceHz_toNat hw f
      rw [if_pos (show hw.shiftHz.toNat ≤ f.toNat from hf)] at hhz
      rw [hhz]
      exact Nat.sub_add_cancel hf

/-! ## What each operation writes -/

/-- All a poll can do, field by field (R143, R144): it writes `RD`, `LAST` and the record only. -/
theorem poll_eq_with (p : Config.Params) (s : State) :
    poll p s = { s with rd := (poll p s).rd, last := (poll p s).last, vfo := (poll p s).vfo } := by
  rcases poll_cases p s with ⟨_, h⟩ | ⟨_, h⟩
  · rw [h]
  · rw [h]; rfl

/-- The fields no operation writes: the decoder and the world outside but for the record. -/
structure SameWorld (s t : State) : Prop where
  /-- The decoder. -/
  dec : t.dec = s.dec
  /-- The clock's level. -/
  nowMs : t.nowMs = s.nowMs
  /-- The events to come. -/
  port : t.port = s.port
  /-- The count of resets. -/
  resets : t.resets = s.resets

theorem exec_sameWorld {i : Instr} {s t : State} (h : exec i s = .next t) : SameWorld s t := by
  cases exec_effect h with
  | code c h =>
    obtain ⟨_, _, _, _, _, hdec, hnow, hport, _, hresets⟩ := h ▸ emitCode_sameButQueue hw c s
    exact ⟨hdec, hnow, hport, hresets⟩
  | symbol v h => rw [← h]; exact ⟨rfl, rfl, rfl, rfl⟩
  | rendered text h => rw [← h, render_eq_with]; exact ⟨rfl, rfl, rfl, rfl⟩
  | freq imm h => rw [← h]; exact ⟨rfl, rfl, rfl, rfl⟩
  | delay imm h => rw [← h]; exact ⟨rfl, rfl, rfl, rfl⟩
  | polled h => rw [← h, poll_eq_with]; exact ⟨rfl, rfl, rfl, rfl⟩
  | nothing _ h => rw [← h]; exact ⟨rfl, rfl, rfl, rfl⟩

/-- Settles O37: each command's effect names the fields it writes. -/
theorem registersAreWrittenOnlyByTheirOperations : Obligations.RegistersAreWrittenOnlyByTheirOperations := by
  intro i s t hcmd hexec
  obtain ⟨hdec, hnow, hport, hresets⟩ := exec_sameWorld hexec
  cases exec_effect hexec with
  | code _ _ k => exact absurd hcmd (k ▸ Bool.false_ne_true)
  | symbol _ _ k => exact absurd hcmd (k ▸ Bool.false_ne_true)
  | rendered text h k =>
    rw [render_eq_with] at h
    subst h
    have hname : i = .stop ∨ ∃ text, i = .setmsg text := k.symm.imp And.left fun hi => ⟨text, hi⟩
    simp [hname]
  | freq imm h k => subst h; simp [k]
  | delay imm h k => subst h; simp [k]
  | polled h k =>
    rw [poll_eq_with] at h
    subst h
    simp [k]
  | nothing _ h k => subst h; simp

/-- R140: a non-empty text leaves the core Running. -/
theorem render_hw_wr_ne_zero {text : List Byte} (htext : text ≠ []) (s : State) : (render hw text s).wr ≠ 0 := by
  intro hzero
  have hwr := render_hw_wr htext s
  rw [hzero] at hwr
  change 0 = _ at hwr
  omega

theorem render_hw_idle (text : List Byte) (s : State) : (render hw text s).idle = decide (text = []) := by
  by_cases htext : text = []
  · subst htext; rfl
  · rw [decide_eq_false htext, ← Bool.not_eq_true, State.idle_iff]
    exact render_hw_wr_ne_zero htext s

/-- Settles O38: only a render writes `WR`. -/
theorem idleChangesOnlyBySetmsg : Obligations.IdleChangesOnlyBySetmsg := by
  intro i s t hcmd hexec
  cases exec_effect hexec with
  | code _ _ k => exact absurd hcmd (k ▸ Bool.false_ne_true)
  | symbol _ _ k => exact absurd hcmd (k ▸ Bool.false_ne_true)
  | rendered text h k =>
    subst h
    rcases k with rfl | ⟨rfl, rfl⟩
    · exact render_hw_idle text s
    · exact render_hw_idle [] s
  | freq imm h k => subst h k; rfl
  | delay imm h k => subst h k; rfl
  | polled h k => subst k; rw [← h, poll_eq_with]; rfl
  | nothing _ h k => subst h k; rfl

/-- R143 where the read position is 0 and the stream is longer than one symbol. -/
theorem nextRd_of_rd_zero {s : State} (hrd : s.rd = 0) (hwr : 1 < s.wr.toNat) : nextRd s = 1 := by
  have hne : ¬s.rd.toNat + 1 = s.wr.toNat := by rw [hrd]; exact hwr.ne
  rw [nextRd, if_neg hne, hrd]
  rfl

/-- Settles O39: after a render `LAST` is 0, so the poll fires from 22 on; `RD` is 0 and the first cell is a Mark, and as the
stream is longer than one symbol, `RD` goes to 1. -/
theorem firstPollAfterSetmsg : Obligations.FirstPollAfterSetmsg := by
  intro text s now htext
  refine ⟨render hw text s, poll hw ((render hw text s).setNowMs now), exec_setmsg text s, exec_poll _, ?_⟩
  have hwr := render_hw_wr htext s
  have hrun : ((render hw text s).setNowMs now).wr ≠ 0 := render_hw_wr_ne_zero htext s
  have hfirst : (render hw text s).readSym 0 = symMark :=
    State.readSym_of_read _ _ _ (render_read_opening htext s (by decide))
  have hlast : (render hw text s).last = 0 := by rw [render_eq_with]
  have hrd : (render hw text s).rd = 0 := by rw [render_eq_with]
  have hbase : (render hw text s).base = s.base := by rw [render_eq_with]
  have hvfo : (render hw text s).vfo = s.vfo := by rw [render_eq_with]
  generalize render hw text s = u at *
  have hnext : nextRd (u.setNowMs now) = 1 := nextRd_of_rd_zero hrd (by rw [State.setNowMs_wr]; omega)
  have hcmds : keyCmds hw u.base ((u.setNowMs now).readSym u.rd.toNat) = [.setOutputEnabled true, .setFrequency s.base] := by
    rw [hrd, hbase, ← keyCmds_mark hw, ← hfirst]; rfl
  rw [poll_of_plain_time hw hrun (by simp [hlast]), fire_eq, hnext]
  refine if_congr (by simp [hlast, hw]) ?_ rfl
  rw [← hvfo, ← hcmds]
  rfl

/-! ## The invariant -/

/-- The invariant reads `SYM`, `WR` and `RD` only. -/
theorem State.Inv.of_same_stream {s t : State} (hinv : s.Inv) (hsym : t.sym = s.sym) (hwr : t.wr = s.wr)
    (hrd : t.rd = s.rd) : t.Inv := by
  obtain ⟨hmem, hwithin, hle, hlt, hzero, hcells⟩ := hinv
  rw [← hsym] at hmem hwithin hcells
  rw [← hwr] at hle hlt hzero hcells
  rw [← hrd] at hlt hzero
  exact ⟨hmem, hwithin, hle, hlt, hzero, hcells⟩

/-- An empty stream with its cursor at 0 has the invariant, whatever its canonical memory holds. -/
theorem State.Inv.of_empty_stream {s : State} (hmem : s.sym.wf) (hwithin : ∀ c ∈ s.sym, c.1 < hw.capacity)
    (hwr : s.wr = 0) (hrd : s.rd = 0) : s.Inv := by
  have hwr0 : s.wr.toNat = 0 := by rw [hwr]; rfl
  exact ⟨hmem, hwithin, by omega, by omega, fun _ => hrd, fun a ha => by omega⟩

theorem takeReset_inv (s : State) : (takeReset s).Inv :=
  .of_empty_stream State.reset_memory_wf (by simp) rfl rfl

/-- Settles O6: nothing is stored, received or recorded. -/
theorem invariantHoldsAtReset : Obligations.InvariantHoldsAtReset :=
  ⟨.of_empty_stream State.reset_memory_wf (by simp [State.reset]) rfl rfl, ⟨_, rfl⟩, Nat.le_refl 0, trivial⟩

/-- Pushing Marks and Spaces keeps the invariant (R28). -/
theorem Pushed.keeps_inv {vs : List Sym} {s t : State} (h : Pushed hw vs s t)
    (hvs : ∀ v ∈ vs, v = symMark ∨ v = symSpace) (hinv : s.Inv) : t.Inv := by
  obtain ⟨hwr, hcells, hmem, hwithin, hrest⟩ := h
  have hle := hinv.wr_le
  refine ⟨hmem hinv.memory, hwithin hinv.within, by omega, fun hpos => ?_, fun hzero => ?_, fun a ha => ?_⟩
  · rw [hrest.rd]
    rcases Nat.eq_zero_or_pos s.wr.toNat with hz | hp
    · rw [hinv.rd_zero hz]; exact hpos
    · have := hinv.rd_lt hp
      omega
  · have hcap := hw.capacity_pos
    rw [hrest.rd, hinv.rd_zero (by omega)]
  · rw [hcells a]
    split
    case isTrue hnew =>
      have hlt : a - s.wr.toNat < vs.length := by omega
      rw [List.getElem?_eq_getElem hlt]
      exact (hvs _ (List.getElem_mem hlt)).imp (congrArg some) (congrArg some)
    case isFalse hold => exact hinv.cells a (by omega)

theorem render_keeps_inv (text : List Byte) {s : State} (hinv : s.Inv) : (render hw text s).Inv := by
  have hreset : (qReset s).Inv := .of_empty_stream hinv.memory hinv.within rfl rfl
  rw [render_eq]
  exact ((render_pushed hw text s).keeps_inv (fun _ => mem_messageSyms) hreset).of_same_stream rfl rfl rfl

/-- R143: the read position stays inside the stream. -/
theorem fire_keeps_inv {s : State} (hwr : s.wr ≠ 0) (now : Word) (hinv : s.Inv) : (fire hw s now).Inv := by
  have hpos := State.wr_pos hwr
  have hrd := hinv.rd_lt hpos
  have hnext := nextRd_toNat s hrd hinv.wr_le
  refine ⟨hinv.memory, hinv.within, hinv.wr_le, fun _ => ?_, fun hzero => absurd hzero hpos.ne', hinv.cells⟩
  change (nextRd s).toNat < s.wr.toNat
  split at hnext <;> omega

theorem poll_keeps_inv {s : State} (hinv : s.Inv) : (poll hw s).Inv := by
  rcases poll_cases hw s with ⟨_, h⟩ | ⟨hfires, h⟩
  · rwa [h]
  · obtain ⟨hwr, _⟩ := (fires_iff hw s s.nowMs).1 hfires
    rw [h]
    exact fire_keeps_inv hwr s.nowMs hinv

/-- Every instruction keeps the invariant (R28). -/
theorem exec_keeps_inv {i : Instr} {s t : State} (hinv : s.Inv) (h : exec i s = .next t) : t.Inv := by
  cases exec_effect h with
  | code c h => exact h ▸ (pushAll_pushed hw (expand codeSpace c) s hinv.wr_le).keeps_inv (fun _ => mem_expand) hinv
  | symbol v h => exact hinv.of_same_stream (h ▸ rfl) (h ▸ rfl) (h ▸ rfl)
  | rendered text h => exact h ▸ render_keeps_inv text hinv
  | freq imm h => exact hinv.of_same_stream (h ▸ rfl) (h ▸ rfl) (h ▸ rfl)
  | delay imm h => exact hinv.of_same_stream (h ▸ rfl) (h ▸ rfl) (h ▸ rfl)
  | polled h => exact h ▸ poll_keeps_inv hinv
  | nothing _ h => exact h ▸ hinv

/-! ## What a step leaves -/

/-- All the states a step can answer, `StepEffect` read off the state it gave. -/
inductive StepNext (s t : State) : Prop where
  /-- A command was received and executed. -/
  | command (i : Instr) (now : Word) (es : List PinEvent)
    (hrecv : receive [] s.nowMs (s.dec.map PinEvent.byte ++ s.port) = .command i now es)
    (hexec : exec i (((s.setDec []).setNowMs now).setPort es) = .next t)
  /-- A command was received and cut short by a reset; `u` is what the whole of it would have left. -/
  | cut (i : Instr) (now : Word) (k : Nat) (es : List PinEvent) (u : State) (cmds : List VfoCmd)
    (hrecv : receive [] s.nowMs (s.dec.map PinEvent.byte ++ s.port) = .command i now (.resetDuring k :: es))
    (hexec : exec i (((s.setDec []).setNowMs now).setPort es) = .next u) (hvfo : u.vfo = s.vfo ++ cmds)
    (ht : t = takeReset { s with dec := [], nowMs := now, port := es, vfo := s.vfo ++ cmds.take k })
  /-- A reset came first. -/
  | reset (now : Word) (es : List PinEvent)
    (hrecv : receive [] s.nowMs (s.dec.map PinEvent.byte ++ s.port) = .reset now es)
    (ht : t = takeReset (((s.setDec []).setNowMs now).setPort es))
  /-- Nothing more arrived. -/
  | waiting (dec : List Byte) (now : Word)
    (hrecv : receive [] s.nowMs (s.dec.map PinEvent.byte ++ s.port) = .waiting dec now)
    (ht : t = ((s.setDec dec).setNowMs now).setPort [])

theorem step_next {s t : State} (hstep : step s = .next t) : StepNext s t := by
  cases step_effect s with
  | command i now es hrecv _ h => exact .command i now es hrecv (h.trans hstep)
  | cut i now k es hrecv h =>
    obtain ⟨u, cmds, hu, hvfo, _⟩ := exec_with_vfo i (((s.setDec []).setNowMs now).setPort es)
    have ht := Host.Outcome.next.inj (hstep.symm.trans (h u hu).symm)
    exact .cut i now k es u cmds hrecv hu hvfo (ht.trans (abandon_eq k hvfo))
  | reset now es hrecv h => exact .reset now es hrecv (Host.Outcome.next.inj (hstep.symm.trans h.symm))
  | waiting dec now hrecv h => exact .waiting dec now hrecv (Host.Outcome.next.inj (hstep.symm.trans h.symm))

/-- Settles O7: receiving leaves the stream as it is, a command keeps the invariant, and a reset, also one that cuts a command
short, empties the stream. -/
theorem invariantKeptByEveryStep : Obligations.InvariantKeptByEveryStep := by
  intro s t hinv hstep
  cases step_next hstep with
  | command i now es _ hexec =>
    have hready : (((s.setDec []).setNowMs now).setPort es).Inv := hinv.of_same_stream rfl rfl rfl
    exact exec_keeps_inv hready hexec
  | cut i now k es u cmds _ _ _ ht => exact ht ▸ takeReset_inv _
  | reset now es _ ht => exact ht ▸ takeReset_inv _
  | waiting dec now _ ht => exact ht ▸ hinv.of_same_stream rfl rfl rfl

end Sys2Proof.Machine
end

section
/-! PROOFS. Receiving a command and the step: which event ends it, and what the decoder holds after it
(spec/30_encoding.md section 5, spec/70_reset_and_hazards.md section 1). -/

namespace Sys2Proof.Machine

theorem eventBytes_append (evs es : List PinEvent) : eventBytes (evs ++ es) = eventBytes evs ++ eventBytes es := by
  induction evs with
  | nil => rfl
  | cons e evs ih => cases e <;> simp [eventBytes, ih]

theorem clockAfter_append (now : Word) (evs es : List PinEvent) :
    clockAfter now (evs ++ es) = clockAfter (clockAfter now evs) es := by
  induction evs generalizing now with
  | nil => rfl
  | cons e evs ih => cases e <;> simp [clockAfter, ih]

/-- R84: events that leave the command incomplete and bring no reset are taken one by one. -/
theorem receive_incomplete {dec : List Byte} {evs : List PinEvent} {r : DecodeRefusal}
    (hreset : ∀ e ∈ evs, e.isReset = false) (h : decode (dec ++ eventBytes evs) = .refused r) (now : Word)
    (es : List PinEvent) :
    receive dec now (evs ++ es) = receive (dec ++ eventBytes evs) (clockAfter now evs) es := by
  induction evs generalizing dec now with
  | nil => simp [eventBytes, clockAfter]
  | cons e evs ih =>
    obtain ⟨he, hevs⟩ := List.forall_mem_cons.1 hreset
    cases e with
    | byte b =>
      rw [eventBytes, List.append_cons] at h ⊢
      obtain ⟨q, hq⟩ := decode_beginning_refused h
      rw [List.cons_append, receive_byte_refused now _ hq, ih hevs h]
      rfl
    | clock t => exact ih hevs h t
    | reset => cases he
    | resetDuring k => cases he

/-- R84: a command is complete when its last byte arrives, and then the later events are still to come. -/
theorem receive_whole {evs : List PinEvent} {i : Instr} (hreset : ∀ e ∈ evs, e.isReset = false)
    (hlast : ∀ t, evs.getLast? ≠ some (.clock t)) (h : decode (eventBytes evs) = .instr i []) (now : Word)
    (es : List PinEvent) :
    receive [] now (evs ++ es) = .command i (clockAfter now evs) es := by
  rcases List.eq_nil_or_concat evs with rfl | ⟨init, e, rfl⟩
  · cases h
  · rw [List.concat_eq_append] at *
    have hinit : ∀ v ∈ init, v.isReset = false := fun v hv => hreset v (List.mem_append_left _ hv)
    have he : e.isReset = false := hreset e (by simp)
    cases e with
    | byte b =>
      have hbytes : eventBytes (init ++ [.byte b]) = eventBytes init ++ [b] := eventBytes_append init [.byte b]
      rw [hbytes] at h
      obtain ⟨q, hq⟩ := decode_proper_beginning_refused h (List.cons_ne_nil b [])
      rw [List.append_assoc, receive_incomplete (dec := []) hinit hq, clockAfter_append]
      exact receive_byte_instr _ _ h
    | clock t => exact absurd List.getLast?_concat (hlast t)
    | reset => cases he
    | resetDuring k => cases he

section
variable {dec : List Byte} {evs : List PinEvent} (hreset : ∀ e ∈ evs, e.isReset = false) (now : Word) (es : List PinEvent)
include hreset

theorem isReset_held_bytes : ∀ e ∈ dec.map PinEvent.byte ++ evs, e.isReset = false := by
  intro e he
  rcases List.mem_append.1 he with he | he
  · obtain ⟨b, _, rfl⟩ := List.mem_map.1 he
    rfl
  · exact hreset e he

/-- The bytes the decoder holds count first (R34): an incomplete command. -/
theorem receive_held_incomplete {r : DecodeRefusal} (h : decode (dec ++ eventBytes evs) = .refused r) :
    receive [] now (dec.map PinEvent.byte ++ (evs ++ es)) = receive (dec ++ eventBytes evs) (clockAfter now evs) es := by
  have hbytes : eventBytes (dec.map PinEvent.byte ++ evs) = dec ++ eventBytes evs := by simp [eventBytes_append]
  rw [← hbytes] at h ⊢
  rw [← List.append_assoc, receive_incomplete (dec := []) (isReset_held_bytes hreset) h, clockAfter_append,
    clockAfter_map_byte]
  rfl

/-- The bytes the decoder holds count first (R34): a whole command. -/
theorem receive_held_whole {i : Instr} (hlast : ∀ t, evs.getLast? ≠ some (.clock t))
    (h : decode (dec ++ eventBytes evs) = .instr i []) :
    receive [] now (dec.map PinEvent.byte ++ (evs ++ es)) = .command i (clockAfter now evs) es := by
  have hbytes : eventBytes (dec.map PinEvent.byte ++ evs) = dec ++ eventBytes evs := by simp [eventBytes_append]
  have hlast' : ∀ t, (dec.map PinEvent.byte ++ evs).getLast? ≠ some (.clock t) := by
    intro t ht
    cases hend : evs.getLast? with
    | some e => rw [List.getLast?_append, hend] at ht; exact hlast t (hend.trans ht)
    | none => rw [List.getLast?_append, hend] at ht; simp at ht
  rw [← hbytes] at h
  rw [← List.append_assoc, receive_whole (isReset_held_bytes hreset) hlast' h, clockAfter_append, clockAfter_map_byte]

end

/-- Settles O1: the bytes held and those at the port are received as the one command, which the step executes. -/
theorem stepRunsTheReceivedCommand : Obligations.StepRunsTheReceivedCommand := by
  intro s evs es i hport hreset hlast hdecode hwhole
  obtain ⟨_, hwf, _⟩ := decodedCommandsReencode _ _ _ hdecode
  have hrecv := receive_held_whole hreset s.nowMs es hlast hdecode
  rw [← hport] at hrecv
  exact ⟨hwf, step_command hrecv hwhole⟩

/-- Settles O2: a clock change and the byte of a poll are one whole command. -/
theorem stepPollsAtTheClockSample : Obligations.StepPollsAtTheClockSample := by
  intro s now es hdec hport hwhole
  obtain ⟨_, hstep⟩ := stepRunsTheReceivedCommand s (pollEvents now) es .poll hport (by simp [pollEvents, PinEvent.isReset])
    (by simp [pollEvents]) (by rw [hdec]; rfl) hwhole
  have hsame : s.setDec [] = s := hdec ▸ rfl
  rwa [hsame] at hstep

/-- Settles O3: the events are taken to the last without completing the command. -/
theorem stepWaitsOnAnIncompleteCommand : Obligations.StepWaitsOnAnIncompleteCommand := by
  intro s r hreset hdecode
  have hrecv := receive_held_incomplete hreset s.nowMs [] hdecode
  rw [List.append_nil, receive_nil] at hrecv
  exact step_waiting hrecv

/-- Either kind of reset ends receiving when no command is complete. -/
theorem receive_of_isReset {e : PinEvent} (he : e.isReset = true) (dec : List Byte) (now : Word) (es : List PinEvent) :
    receive dec now (e :: es) = .reset now es := by
  cases e with
  | reset | resetDuring k => rfl
  | byte _ | clock _ => cases he

/-- Settles O4: the events before the reset leave the command incomplete, so the step takes the reset. -/
theorem stepTakesReset : Obligations.StepTakesReset := by
  intro s evs e es r hport hreset he hdecode
  have hrecv := receive_held_incomplete hreset s.nowMs (e :: es) hdecode
  rw [receive_of_isReset he, ← hport] at hrecv
  exact ⟨_, step_reset hrecv, rfl, rfl, rfl, rfl, rfl, rfl, rfl, fun _ => rfl, rfl, rfl, rfl⟩

/-- Settles O5: the command is received whole and abandoned; `abandon_eq` says what is left. -/
theorem resetAbandonsAnOperation : Obligations.ResetAbandonsAnOperation := by
  intro s evs k es i hport hreset hlast hdecode
  have hrecv := receive_held_whole hreset s.nowMs (.resetDuring k :: es) hlast hdecode
  rw [← hport] at hrecv
  obtain ⟨u, cmds, hu, hvfo, _⟩ :=
    exec_with_vfo i (((s.setDec []).setNowMs (clockAfter s.nowMs evs)).setPort es)
  exact ⟨u, _, cmds, hu, hvfo, step_cut hrecv hu, abandon_eq k hvfo⟩

/-- R84: while receiving waits, the decoder holds a beginning only. -/
theorem receive_waiting_partial {dec held : List Byte} {now level : Word} {es : List PinEvent}
    (hpartial : ∃ r, decode dec = .refused r) (h : receive dec now es = .waiting held level) :
    ∃ r, decode held = .refused r := by
  induction es generalizing dec now with
  | nil => cases h; exact hpartial
  | cons e es ih =>
    cases e with
    | byte b =>
      cases hd : decode (dec ++ [b]) with
      | instr i rest => rw [receive_byte_instr now es hd] at h; cases h
      | refused r => rw [receive_byte_refused now es hd] at h; exact ih ⟨r, hd⟩ h
    | clock t => exact ih hpartial h
    | reset | resetDuring k => cases h

/-- Settles O8: a command and a reset leave no byte, and waiting leaves a beginning. -/
theorem decoderHoldsOnlyABeginning : Obligations.DecoderHoldsOnlyABeginning := by
  intro s t hstep
  have hempty : decode [] = .refused .noOpcode := rfl
  cases step_next hstep with
  | command i now es _ hexec => exact ⟨_, (congrArg decode (exec_sameWorld hexec).dec).trans hempty⟩
  | cut i now k es u cmds _ _ _ ht => subst ht; exact ⟨_, hempty⟩
  | reset now es _ ht => subst ht; exact ⟨_, hempty⟩
  | waiting dec now hrecv ht => exact ht ▸ receive_waiting_partial ⟨_, hempty⟩ hrecv

end Sys2Proof.Machine
end

section
/-! PROOFS. Timing over steps: the premise on the clock, the distance between firings, the cyclic replay, and that no step
disables the output (spec/42_timing_fsm.md section 2, spec/60_exceptions.md section 6, spec/70_reset_and_hazards.md
section 4). -/

namespace Sys2Proof.Machine

/-! ## The premise on the clock -/

@[simp] theorem clockMonotone_map_byte (now : Word) (bs : List Byte) (es : List PinEvent) :
    clockMonotone now (bs.map PinEvent.byte ++ es) ↔ clockMonotone now es := by
  induction bs with
  | nil => rfl
  | cons b bs ih => exact ih

/-- D16 for what receiving comes to: the clock has not stepped back since `start`, and will not. -/
def Received.NotBefore (start : Word) : Received → Prop
  | .command _ now es | .reset now es => start.toNat ≤ now.toNat ∧ clockMonotone now es
  | .waiting _ now => start.toNat ≤ now.toNat

theorem Received.NotBefore.of_later {start later : Word} {r : Received} (h : start.toNat ≤ later.toNat)
    (hr : r.NotBefore later) : r.NotBefore start := by
  cases r with
  | command | reset => exact ⟨h.trans hr.1, hr.2⟩
  | waiting => exact h.trans hr

theorem receive_notBefore {now : Word} {es : List PinEvent} (h : clockMonotone now es) (dec : List Byte) :
    (receive dec now es).NotBefore now := by
  induction es generalizing dec now with
  | nil => exact Nat.le_refl _
  | cons e es ih =>
    cases e with
    | byte b =>
      cases hd : decode (dec ++ [b]) with
      | instr i rest =>
        rw [receive_byte_instr now es hd]
        exact ⟨Nat.le_refl _, (clockMonotone_map_byte now rest es).2 h⟩
      | refused r =>
        rw [receive_byte_refused now es hd]
        exact ih h _
    | clock t => exact (ih h.2 dec).of_later h.1
    | reset | resetDuring k => exact ⟨Nat.le_refl _, h⟩

/-- What a step receives, under the premise on the clock. -/
theorem State.ClockMonotone.received {s : State} (h : s.ClockMonotone) :
    (receive [] s.nowMs (s.dec.map PinEvent.byte ++ s.port)).NotBefore s.last :=
  .of_later h.1 (receive_notBefore ((clockMonotone_map_byte _ _ _).2 h.2) [])

/-- The state in which a received command executes has the premise. -/
theorem State.ClockMonotone.received_command {s : State} (hmono : s.ClockMonotone) {i : Instr} {now : Word}
    {es : List PinEvent} (hrecv : receive [] s.nowMs (s.dec.map PinEvent.byte ++ s.port) = .command i now es) :
    (((s.setDec []).setNowMs now).setPort es).ClockMonotone := by
  have h := hmono.received
  rwa [hrecv] at h

/-- A state with `LAST` = 0 and no step back to come has the premise. -/
theorem State.ClockMonotone.of_last_zero {s : State} (hlast : s.last = 0) (h : clockMonotone s.nowMs s.port) :
    s.ClockMonotone :=
  ⟨by rw [hlast]; exact Nat.zero_le _, h⟩

/-- What an instruction can do to `LAST` (R121, R143). -/
theorem exec_last {i : Instr} {s t : State} (h : exec i s = .next t) :
    t.last = s.last ∨ t.last = s.nowMs ∨ t.last = 0 ∧ (i = .stop ∨ ∃ text, i = .setmsg text) := by
  cases exec_effect h with
  | code c h => exact .inl (h ▸ (emitCode_sameButQueue hw c s).last)
  | symbol v h => exact .inl (h ▸ rfl)
  | rendered text h k =>
    exact .inr (.inr ⟨by rw [← h, render_eq_with], k.symm.imp And.left fun hi => ⟨text, hi⟩⟩)
  | freq imm h => exact .inl (h ▸ rfl)
  | delay imm h => exact .inl (h ▸ rfl)
  | polled h =>
    rcases poll_cases hw s with ⟨_, hpoll⟩ | ⟨_, hpoll⟩
    · exact .inl (by rw [← h, hpoll])
    · exact .inr (.inl (by rw [← h, hpoll]; rfl))
  | nothing _ h => exact .inl (h ▸ rfl)

theorem exec_keeps_clockMonotone {i : Instr} {s t : State} (hmono : s.ClockMonotone) (h : exec i s = .next t) :
    t.ClockMonotone := by
  obtain ⟨_, hnow, hport, _⟩ := exec_sameWorld h
  obtain ⟨hle, hevents⟩ := hmono
  rw [← hnow, ← hport] at hevents
  refine ⟨?_, hevents⟩
  rw [hnow]
  rcases exec_last h with hlast | hlast | ⟨hlast, _⟩ <;> rw [hlast]
  · exact hle
  · exact Nat.zero_le _

/-- Settles O10: receiving only moves the clock forward; a command leaves the clock and sets `LAST` at most to it. -/
theorem clockPremiseKeptByEveryStep : Obligations.ClockPremiseKeptByEveryStep := by
  intro s t hmono hstep
  have hreceived := hmono.received
  cases step_next hstep with
  | command i now es hrecv hexec => exact exec_keeps_clockMonotone (hmono.received_command hrecv) hexec
  | cut i now k es u cmds hrecv _ _ ht =>
    rw [hrecv] at hreceived
    exact ht ▸ .of_last_zero rfl hreceived.2
  | reset now es hrecv ht =>
    rw [hrecv] at hreceived
    exact ht ▸ .of_last_zero rfl hreceived.2
  | waiting dec now hrecv ht =>
    rw [hrecv] at hreceived
    exact ht ▸ ⟨hreceived, trivial⟩

/-! ## The commands of a step -/

theorem receive_isCommand {dec : List Byte} {now level : Word} {evs es : List PinEvent} {i : Instr}
    (h : receive dec now evs = .command i level es) : i.isCommand = true := by
  induction evs generalizing dec now with
  | nil => cases h
  | cons e evs ih =>
    cases e with
    | byte b =>
      cases hd : decode (dec ++ [b]) with
      | instr j rest =>
        rw [receive_byte_instr now evs hd] at h
        cases h
        exact (decodedCommandsReencode _ _ _ hd).1
      | refused r => rw [receive_byte_refused now evs hd] at h; exact ih h
    | clock t => exact ih h
    | reset | resetDuring k => cases h

/-- A command of the host leaves the VFO record alone unless it is a poll that fires. -/
theorem exec_vfo_or_fire {i : Instr} {s t : State} (hcmd : i.isCommand = true) (h : exec i s = .next t) :
    t.vfo = s.vfo ∨ fires hw s s.nowMs = true ∧ t = fire hw s s.nowMs := by
  by_cases hpoll : i = .poll
  · subst hpoll
    obtain rfl := Host.Outcome.next.inj ((exec_poll s).symm.trans h)
    rcases poll_cases hw s with ⟨_, hidle⟩ | hfired
    · exact .inl (by rw [hidle])
    · exact .inr hfired
  · obtain ⟨_, _, _, _, hvfo, _⟩ := registersAreWrittenOnlyByTheirOperations i s t hcmd h
    exact .inl (by_contra fun hne => hpoll (hvfo hne))

/-- R142 under D16: a command that issues comes at least 22 ms after `LAST` and records its clock sample. -/
theorem exec_issues_after_interval {i : Instr} {s t : State} (hcmd : i.isCommand = true) (h : exec i s = .next t)
    (hvfo : t.vfo ≠ s.vfo) (hmono : s.last.toNat ≤ s.nowMs.toNat) :
    s.last.toNat + 22 ≤ s.nowMs.toNat ∧ t.last = s.nowMs := by
  obtain hsame | ⟨hfires, rfl⟩ := exec_vfo_or_fire hcmd h
  · exact absurd hsame hvfo
  · obtain ⟨_, hdue⟩ := (fires_iff hw s s.nowMs).1 hfires
    exact ⟨(interval_le_iff hmono).1 hdue, rfl⟩

/-- Settles O41: only an executed command issues anything, cut short or not. -/
theorem commandsComeAtLeast22MsAfterLast : Obligations.CommandsComeAtLeast22MsAfterLast := by
  intro s t hmono hstep hvfo
  cases step_next hstep with
  | command i now es hrecv hexec =>
    obtain ⟨hdue, hlast⟩ :=
      exec_issues_after_interval (receive_isCommand hrecv) hexec hvfo (hmono.received_command hrecv).1
    have hnow : t.nowMs = now := (exec_sameWorld hexec).nowMs
    exact ⟨hnow ▸ hdue, fun _ => hlast.trans hnow.symm⟩
  | cut i now k es u cmds hrecv hexec hcmds ht =>
    subst ht
    have hissued : u.vfo ≠ s.vfo := by
      intro hsame
      have hnil : cmds = [] := List.append_right_eq_self.1 (hcmds.symm.trans hsame)
      exact hvfo (by simp [hnil])
    obtain ⟨hdue, _⟩ :=
      exec_issues_after_interval (receive_isCommand hrecv) hexec hissued (hmono.received_command hrecv).1
    exact ⟨hdue, fun hresets => absurd hresets (Nat.succ_ne_self _)⟩
  | reset now es _ ht => exact absurd (ht ▸ rfl) hvfo
  | waiting dec now _ ht => exact absurd (ht ▸ rfl) hvfo

/-- R28, R160: in a state with the invariant a command issues no disable. -/
theorem exec_never_disables {i : Instr} {s t : State} (hcmd : i.isCommand = true) (hinv : s.Inv)
    (h : exec i s = .next t) : ∃ cmds, t.vfo = s.vfo ++ cmds ∧ VfoCmd.setOutputEnabled false ∉ cmds := by
  obtain hsame | ⟨hfires, rfl⟩ := exec_vfo_or_fire hcmd h
  · exact ⟨[], by rw [hsame, List.append_nil], List.not_mem_nil⟩
  · obtain ⟨hwr, _⟩ := (fires_iff hw s s.nowMs).1 hfires
    refine ⟨keyCmds hw s.base (s.readSym s.rd.toNat), rfl, ?_⟩
    rcases hinv.readSym_rd hwr with hsym | hsym <;> simp [hsym]

/-- Settles O42: an executed command issues no disable, a cut one the first of its commands, a reset and a wait nothing. -/
theorem outputIsNeverDisabled : Obligations.OutputIsNeverDisabled := by
  intro s t hinv hstep
  have hready : ∀ now es, (((s.setDec []).setNowMs now).setPort es).Inv := fun _ _ => hinv.of_same_stream rfl rfl rfl
  have hnothing : s.vfo = s.vfo ++ [] := (List.append_nil _).symm
  cases step_next hstep with
  | command i now es hrecv hexec =>
    obtain ⟨cmds, hcmds, hnever⟩ := exec_never_disables (receive_isCommand hrecv) (hready now es) hexec
    exact ⟨cmds, hcmds, hnever⟩
  | cut i now k es u cmds hrecv hexec hcmds ht =>
    obtain ⟨cmds', hcmds', hnever⟩ := exec_never_disables (receive_isCommand hrecv) (hready now es) hexec
    obtain rfl : cmds' = cmds := List.append_cancel_left (hcmds'.symm.trans hcmds)
    exact ⟨cmds'.take k, ht ▸ rfl, fun hmem => hnever (List.mem_of_mem_take hmem)⟩
  | reset now es _ ht => exact ⟨[], ht ▸ hnothing, List.not_mem_nil⟩
  | waiting dec now _ ht => exact ⟨[], ht ▸ hnothing, List.not_mem_nil⟩

/-! ## Runs -/

theorem State.run_succ {s t : State} (h : step s = .next t) (n : Nat) : s.run (n + 1) = t.run n := by
  rw [State.run, h]

/-- Without a `SETMSG` and a reset `LAST` only moves forward. -/
theorem last_le_of_not_restarts {s t : State} (hmono : s.ClockMonotone) (hrest : s.restarts = false)
    (hstep : step s = .next t) : s.last.toNat ≤ t.last.toNat := by
  cases step_next hstep with
  | command i now es hrecv hexec =>
    rcases exec_last hexec with hlast | hlast | ⟨_, rfl | ⟨text, rfl⟩⟩
    · rw [hlast]; exact Nat.le_refl _
    · rw [hlast]; exact (hmono.received_command hrecv).1
    · exact absurd (restarts_stop hrecv) (hrest ▸ Bool.false_ne_true)
    · exact absurd (restarts_setmsg hrecv) (hrest ▸ Bool.false_ne_true)
  | cut i now k es u cmds hrecv => exact absurd (restarts_cut hrecv) (hrest ▸ Bool.false_ne_true)
  | reset now es hrecv => exact absurd (restarts_reset hrecv) (hrest ▸ Bool.false_ne_true)
  | waiting dec now _ ht => exact ht ▸ Nat.le_refl _

/-- Along an undisturbed run the premise on the clock is kept and `LAST` only moves forward. -/
theorem run_undisturbed {n : Nat} {s t : State} (hmono : s.ClockMonotone) (hun : s.undisturbed n)
    (hrun : s.run n = .next t) : t.ClockMonotone ∧ s.last.toNat ≤ t.last.toNat := by
  induction n generalizing s with
  | zero =>
    obtain rfl := Host.Outcome.next.inj hrun
    exact ⟨hmono, Nat.le_refl _⟩
  | succ n ih =>
    obtain ⟨hrest, hnext⟩ := hun
    obtain ⟨u, hu⟩ := step_eq_next s
    rw [State.run_succ hu] at hrun
    obtain ⟨ht, hle⟩ := ih (clockPremiseKeptByEveryStep s u hmono hu) (hnext u hu) hrun
    exact ⟨ht, (last_le_of_not_restarts hmono hrest hu).trans hle⟩

/-- Settles O50: the first firing sets `LAST` to its clock, `LAST` does not move back, and the second firing comes 22 ms
after it. -/
theorem firingsOfOneMessageAreAtLeast22MsApart : Obligations.FiringsOfOneMessageAreAtLeast22MsApart := by
  intro n s t u v hmono hst hfired hresets hun hrun huv hfired'
  obtain ⟨_, hlast⟩ := commandsComeAtLeast22MsAfterLast s t hmono hst hfired
  obtain ⟨hmonoU, hle⟩ := run_undisturbed (clockPremiseKeptByEveryStep s t hmono hst) hun hrun
  obtain ⟨hdue, _⟩ := commandsComeAtLeast22MsAfterLast u v hmonoU huv hfired'
  rw [hlast hresets] at hle
  omega

/-- R143: advancing the read position is adding one, modulo the stream's size. -/
theorem nextRd_add_mod {s : State} (hinv : s.Inv) (hwr : s.wr ≠ 0) (k : Nat) :
    ((nextRd s).toNat + k) % s.wr.toNat = (s.rd.toNat + (k + 1)) % s.wr.toNat := by
  have hpos := State.wr_pos hwr
  rw [nextRd_toNat s (hinv.rd_lt hpos) hinv.wr_le]
  split
  case isTrue hwrap => rw [show s.rd.toNat + (k + 1) = k + s.wr.toNat by omega, Nat.zero_add, Nat.add_mod_right]
  case isFalse => rw [Nat.add_right_comm, Nat.add_assoc]

/-- The state a due poll of the port leaves: the poll's two events taken, the symbol at `RD` keyed. -/
theorem step_due_poll {s : State} {now : Word} {ts : List Word} (hwr : s.wr ≠ 0) (hdec : s.dec = [])
    (hport : s.port = (now :: ts).flatMap pollEvents) (hdue : s.last.toNat + 22 ≤ now.toNat) :
    step s = .next (fire hw ((s.setNowMs now).setPort (ts.flatMap pollEvents)) now) := by
  have hwhole : ∀ k, (ts.flatMap pollEvents).head? ≠ some (.resetDuring k) := by
    cases ts <;> simp [pollEvents]
  rw [stepPollsAtTheClockSample s now (ts.flatMap pollEvents) hdec hport hwhole, exec_poll]
  refine congrArg _ (poll_of_due (s := (s.setNowMs now).setPort (ts.flatMap pollEvents)) hwr ?_)
  exact (interval_le_iff (show s.last.toNat ≤ now.toNat by omega)).2 hdue

/-- The commands of the `k`-th of a row of polls that all fire, counted from 0 (R143, R160). -/
def keyedAt (s : State) (k : Nat) : List VfoCmd := keyCmds hw s.base (s.readSym ((s.rd.toNat + k) % s.wr.toNat))

theorem keyedAt_fire {s : State} (hinv : s.Inv) (hwr : s.wr ≠ 0) (now : Word) (es : List PinEvent) (k : Nat) :
    keyedAt (fire hw ((s.setNowMs now).setPort es) now) k = keyedAt s (k + 1) :=
  congrArg (fun a => keyCmds hw s.base (s.readSym a)) (nextRd_add_mod hinv hwr k)

/-- Settles O40, by induction on the polls: each fires on the symbol at `RD` and leaves a state of the same kind. -/
theorem cyclicReplay : Obligations.CyclicReplay := by
  intro s ts hinv hwr hdec hport hspaced
  have hpos := State.wr_pos hwr
  change ∃ t : State, _ ∧ t.vfo = s.vfo ++ (List.range ts.length).flatMap (keyedAt s) ∧ _
  induction ts generalizing s with
  | nil =>
    have hrd := Nat.mod_eq_of_lt (hinv.rd_lt hpos)
    exact ⟨s, rfl, (List.append_nil _).symm, hrd.symm, rfl, rfl, rfl, rfl⟩
  | cons now ts ih =>
    obtain ⟨hdue, hlater⟩ := hspaced
    have hfired : (fire hw ((s.setNowMs now).setPort (ts.flatMap pollEvents)) now).Inv :=
      fire_keeps_inv (s := (s.setNowMs now).setPort (ts.flatMap pollEvents)) hwr now (hinv.of_same_stream rfl rfl rfl)
    obtain ⟨t, hrun, hvfo, htrd, hlast, hkept⟩ := ih _ hfired hwr hdec rfl hlater hpos
    have hrest : (List.range ts.length).flatMap (keyedAt (fire hw ((s.setNowMs now).setPort (ts.flatMap pollEvents)) now)) =
        (List.range ts.length).flatMap fun k => keyedAt s (k + 1) :=
      congrArg (List.flatMap · _) (funext (keyedAt_fire hinv hwr now (ts.flatMap pollEvents)))
    have hfirst : (fire hw ((s.setNowMs now).setPort (ts.flatMap pollEvents)) now).vfo = s.vfo ++ keyedAt s 0 := by
      rw [fire_eq, keyedAt, Nat.add_zero, Nat.mod_eq_of_lt (hinv.rd_lt hpos)]
      rfl
    refine ⟨t, (State.run_succ (step_due_poll hwr hdec hport hdue) _).trans hrun, ?_,
      htrd.trans (nextRd_add_mod hinv hwr ts.length), ?_, hkept⟩
    · rw [hvfo, hrest, hfirst, List.append_assoc, List.length_cons, List.range_succ_eq_map, List.flatMap_cons,
        List.flatMap_map]
    · rw [hlast, List.getLastD_cons]
      rfl

end Sys2Proof.Machine
end

section
/-! PROOFS. Noninterference over runs: neither the stored delay nor the shift state a run starts in reaches anything else
(spec/44_host_commands.md section 5, spec/10_state.md section 9). -/

namespace Sys2Proof.Machine

/-- The operation `f` keeps the relation `R` between two states. -/
def Respects (R : State → State → Prop) (f : State → State) : Prop := ∀ ⦃s t : State⦄, R s t → R (f s) (f t)

/-- A relation between two states that no operation breaks, whose states receive the same events and are made equal by an
abandoned operation and by a reset. -/
structure Unobserved (R : State → State → Prop) : Prop where
  /-- A state is related to itself. -/
  refl : ∀ s, R s s
  /-- What receiving looks at is the same. -/
  received : ∀ {s t}, R s t → t.dec = s.dec ∧ t.nowMs = s.nowMs ∧ t.port = s.port
  /-- What receiving writes keeps the relation. -/
  fetched : ∀ {s t} dec now es, R s t →
    R (((s.setDec dec).setNowMs now).setPort es) (((t.setDec dec).setNowMs now).setPort es)
  /-- A reset forgets the difference. -/
  reset : ∀ {s t}, R s t → takeReset t = takeReset s
  /-- An abandoned operation forgets the difference. -/
  abandoned : ∀ {s t u v} k, R s t → R u v → abandon t v k = abandon s u k
  /-- `POLL`. -/
  polled : Respects R (poll hw)
  /-- The dispatch of a symbol. -/
  keyed : ∀ v, Respects R (key hw v)
  /-- `EMIT_CODE`. -/
  emitted : ∀ c, Respects R (emitCode hw c)
  /-- `SETMSG`. -/
  rendered : ∀ text, Respects R (render hw text)
  /-- `SETFREQ`. -/
  freq : ∀ imm, Respects R (State.setBase · imm)
  /-- `SETDELAY`. -/
  delay : ∀ imm, Respects R (State.setDelay · imm)

section
variable {R : State → State → Prop} (hR : Unobserved R)
include hR

/-- Every instruction keeps such a relation; the arms not named are the 32 codes. -/
theorem Unobserved.exec_fun (i : Instr) : ∃ f, (∀ s, exec i s = .next (f s)) ∧ Respects R f := by
  cases i with
  | setfreq imm => exact ⟨_, exec_setfreq imm, hR.freq imm⟩
  | setmsg text => exact ⟨_, exec_setmsg text, hR.rendered text⟩
  | setdelay imm => exact ⟨_, exec_setdelay imm, hR.delay imm⟩
  | poll => exact ⟨_, exec_poll, hR.polled⟩
  | reserved opcode => exact ⟨_, exec_reserved opcode, fun _ _ h => h⟩
  | stop => exact ⟨_, exec_stop, hR.rendered []⟩
  | sil => exact ⟨_, exec_sil, hR.keyed symSil⟩
  | mark => exact ⟨_, exec_mark, hR.keyed symMark⟩
  | space => exact ⟨_, exec_space, hR.keyed symSpace⟩
  | symInvalid => exact ⟨_, exec_symInvalid, hR.keyed 3#2⟩
  | _ => exact ⟨_, fun _ => rfl, hR.emitted _⟩

theorem Unobserved.exec {s t u : State} (h : R s t) {i : Instr} (hexec : exec i s = .next u) :
    ∃ v, Machine.exec i t = .next v ∧ R u v := by
  obtain ⟨f, hf, hkeeps⟩ := hR.exec_fun i
  obtain rfl := Host.Outcome.next.inj ((hf s).symm.trans hexec)
  exact ⟨f t, hf t, hkeeps h⟩

/-- Two related states take the same branch of a step. -/
theorem Unobserved.step {s t u : State} (h : R s t) (hstep : step s = .next u) : ∃ v, Machine.step t = .next v ∧ R u v := by
  have hrecvT : receive [] t.nowMs (t.dec.map PinEvent.byte ++ t.port) =
      receive [] s.nowMs (s.dec.map PinEvent.byte ++ s.port) := by
    obtain ⟨hdec, hnow, hport⟩ := hR.received h
    rw [hdec, hnow, hport]
  cases step_effect s with
  | command i now es hrecv hwhole hexec =>
    obtain ⟨v, hv, huv⟩ := hR.exec (hR.fetched [] now es h) (hexec.trans hstep)
    exact ⟨v, (step_command (hrecvT.trans hrecv) hwhole).trans hv, huv⟩
  | cut i now k es hrecv hcut =>
    obtain ⟨u', hu'⟩ := exec_eq_next i (((s.setDec []).setNowMs now).setPort es)
    obtain ⟨v', hv', huv'⟩ := hR.exec (hR.fetched [] now es h) hu'
    obtain rfl := Host.Outcome.next.inj ((hcut u' hu').trans hstep)
    exact ⟨_, step_cut (hrecvT.trans hrecv) hv', hR.abandoned k (hR.fetched [] now es h) huv' ▸ hR.refl _⟩
  | reset now es hrecv hreset =>
    obtain rfl := Host.Outcome.next.inj (hreset.trans hstep)
    exact ⟨_, step_reset (hrecvT.trans hrecv), hR.reset (hR.fetched [] now es h) ▸ hR.refl _⟩
  | waiting dec now hrecv hwait =>
    obtain rfl := Host.Outcome.next.inj (hwait.trans hstep)
    exact ⟨_, step_waiting (hrecvT.trans hrecv), hR.fetched dec now [] h⟩

theorem Unobserved.run {n : Nat} {s t u : State} (h : R s t) (hrun : s.run n = .next u) :
    ∃ v, t.run n = .next v ∧ R u v := by
  induction n generalizing s t with
  | zero =>
    obtain rfl := Host.Outcome.next.inj hrun
    exact ⟨t, rfl, h⟩
  | succ n ih =>
    obtain ⟨s', hs'⟩ := step_eq_next s
    obtain ⟨t', ht', h'⟩ := hR.step h hs'
    rw [State.run_succ hs'] at hrun
    rw [State.run_succ ht']
    exact ih h' hrun

end

/-- The second state is the first with one field written by `upd`. -/
def ApartBy {α : Type} (upd : State → α → State) (s t : State) : Prop := ∃ a, t = upd s a

theorem Respects.of_commutes {α : Type} {upd : State → α → State} {f : State → State}
    (h : ∀ s a, f (upd s a) = upd (f s) a) : Respects (ApartBy upd) f := by
  rintro s _ ⟨a, rfl⟩
  exact ⟨a, h s a⟩

theorem Respects.of_forgets {α : Type} {upd : State → α → State} {f : State → State}
    (hrefl : ∀ s, ApartBy upd s s) (h : ∀ s a, f (upd s a) = f s) : Respects (ApartBy upd) f := by
  rintro s _ ⟨a, rfl⟩
  exact h s a ▸ hrefl (f s)

/-! ## The stored delay -/

theorem qPush_setDelay (p : Config.Params) (v : Sym) (s : State) (d : Word) :
    qPush p v (s.setDelay d) = (qPush p v s).setDelay d := by
  unfold qPush
  rw [State.setDelay_wr]
  split <;> rfl

theorem pushAll_setDelay (p : Config.Params) (vs : List Sym) (s : State) (d : Word) :
    pushAll p vs (s.setDelay d) = (pushAll p vs s).setDelay d := by
  induction vs generalizing s with
  | nil => rfl
  | cons v vs ih => exact (congrArg (pushAll p vs) (qPush_setDelay p v s d)).trans (ih (qPush p v s))

theorem render_setDelay (p : Config.Params) (text : List Byte) (s : State) (d : Word) :
    render p text (s.setDelay d) = (render p text s).setDelay d := by
  have hreset : qReset (s.setDelay d) = (qReset s).setDelay d := rfl
  rw [render_eq, render_eq, hreset, pushAll_setDelay]
  rfl

theorem poll_setDelay (p : Config.Params) (s : State) (d : Word) : poll p (s.setDelay d) = (poll p s).setDelay d := by
  have hfires : fires p (s.setDelay d) (s.setDelay d).nowMs = fires p s s.nowMs := rfl
  rw [poll_eq, poll_eq, hfires]
  split <;> rfl

theorem unobserved_delay : Unobserved (ApartBy State.setDelay) where
  refl s := ⟨s.delay, rfl⟩
  received := by rintro s _ ⟨d, rfl⟩; exact ⟨rfl, rfl, rfl⟩
  fetched := by rintro s _ dec now es ⟨d, rfl⟩; exact ⟨d, rfl⟩
  reset := by rintro s _ ⟨d, rfl⟩; rfl
  abandoned := by rintro s _ u _ k ⟨d, rfl⟩ ⟨e, rfl⟩; rfl
  polled := .of_commutes (poll_setDelay hw)
  keyed v := .of_commutes fun _ _ => rfl
  emitted c := .of_commutes (pushAll_setDelay hw (expand codeSpace c))
  rendered text := .of_commutes (render_setDelay hw text)
  freq imm := .of_commutes fun _ _ => rfl
  delay imm := .of_forgets (fun s => ⟨s.delay, rfl⟩) fun _ _ => rfl

/-- Settles O43: no operation reads `DELAY`, so two runs stay apart in it only. -/
theorem delayInfluencesNothing : Obligations.DelayInfluencesNothing := by
  intro n s t d hrun
  obtain ⟨_, hv, d', rfl⟩ := unobserved_delay.run ⟨d, rfl⟩ hrun
  exact ⟨d', hv⟩

/-! ## The shift state -/

/-- R121, R125: the render clears `FIGS` before it reads it. -/
theorem render_setFigs (p : Config.Params) (text : List Byte) (s : State) (f : Bool) :
    render p text (s.setFigs f) = render p text s := by
  have hreset : qReset (s.setFigs f) = (qReset s).setFigs f := rfl
  rw [render_eq, render_eq, hreset, pushAll_setFigs, setFigs_setFigs]

theorem poll_setFigs (p : Config.Params) (s : State) (f : Bool) : poll p (s.setFigs f) = (poll p s).setFigs f := by
  have hfires : fires p (s.setFigs f) (s.setFigs f).nowMs = fires p s s.nowMs := rfl
  rw [poll_eq, poll_eq, hfires]
  split <;> rfl

theorem unobserved_figs : Unobserved (ApartBy State.setFigs) where
  refl s := ⟨s.figs, rfl⟩
  received := by rintro s _ ⟨f, rfl⟩; exact ⟨rfl, rfl, rfl⟩
  fetched := by rintro s _ dec now es ⟨f, rfl⟩; exact ⟨f, rfl⟩
  reset := by rintro s _ ⟨f, rfl⟩; rfl
  abandoned := by rintro s _ u _ k ⟨f, rfl⟩ ⟨g, rfl⟩; rfl
  polled := .of_commutes (poll_setFigs hw)
  keyed v := .of_commutes fun _ _ => rfl
  emitted c := .of_commutes (pushAll_setFigs hw (expand codeSpace c))
  rendered text := .of_forgets (fun s => ⟨s.figs, rfl⟩) (render_setFigs hw text)
  freq imm := .of_commutes fun _ _ => rfl
  delay imm := .of_commutes fun _ _ => rfl

/-- Settles O44: only the render reads `FIGS`, and it clears the flag first, so two runs stay apart in it at most. -/
theorem shiftStateIsUnobservable : Obligations.ShiftStateIsUnobservable := by
  intro n s t f hrun
  obtain ⟨_, hv, f', rfl⟩ := unobserved_figs.run ⟨f, rfl⟩ hrun
  exact ⟨f', hv⟩

end Sys2Proof.Machine
end
